-- ==== Sys2Proof/Word.lean ====
section
/-! DEFINITION. The byte and the plain data types of the spec: frames, enumerations (R11), the transactions of the block's
interface (R74, R78) and the answers of the environment behind TS (R175 to R180). -/

namespace Sys2Proof

/-- An unsigned 8-bit value (R8); its addition is `+8`, addition modulo 256 (R9). -/
abbrev Byte := BitVec 8

/-- A finite byte sequence of any length (R11). -/
abbrev ByteSeq := List Byte

/-- A `ByteSeq` of length exactly 4, by field (R60, R61). Nothing here says the checksum is right. -/
structure Frame where
  header : Byte
  addr   : Byte
  op     : Byte
  csum   : Byte
deriving DecidableEq, Repr, Inhabited

/-- The closed set of actions (R11). -/
inductive Action where
  | turnOff | turnOn | toggle | queryStatus
deriving DecidableEq, Repr, Inhabited

/-- What a table entry holds (R11, R22): three values, so the reserved code 0b01 is not one (U2). -/
inductive RelayState where
  | unknown | off | on
deriving DecidableEq, Repr, Inhabited

/-- A decode result's state (R11): `unknown` carries the raw status code. -/
inductive DecodedState where
  | off | on
  | unknown (rawCode : Byte)
deriving DecidableEq, Repr, Inhabited

/-- The three decode failures (R11, R68). -/
inductive DecodeError where
  | lengthError | checksumError | headerError
deriving DecidableEq, Repr, Inhabited

/-- `portIdentifier`, a value the block never inspects (R23). DESIGN CHOICE: a natural number stands for it (log 19). -/
abbrev PortId := Nat

/-- The platform message of `OpenError`, opaque (R163, D27). DESIGN CHOICE: a natural number stands for it (log 19). -/
abbrev Message := Nat

/-- The connection state (R23). -/
inductive ConnectionState where
  | closed
  | openOn (port : PortId)
deriving DecidableEq, Repr, Inhabited

/-- The sequencer phase (R25). -/
inductive Phase where
  | idle | flush | write | read
deriving DecidableEq, Repr, Inhabited

/-- The operand latches `cur` (R26). -/
structure Latches where
  relay  : Byte
  action : Action
  expect : Bool
deriving DecidableEq, Repr, Inhabited

/-! ## The interface -/

/-- Which stream a frame is on: a frame itself does not say (R78). -/
inductive Direction where
  | toDevice   -- block to device: the TX stream
  | toBlock    -- device to block: the RX stream
deriving DecidableEq, Repr, Inhabited

/-- The named operand fields that travel beside `op_sel` (R74, R75). Enumerations are on the wire as their codes (R71, R72).
An operation reads its own fields only. DESIGN CHOICE: one record for all operations (log 2). -/
structure Operands where
  relay       : Byte := 0
  op          : Byte := 0
  code        : Byte := 0
  a           : Byte := 0
  v           : BitVec 2 := 0
  action      : BitVec 2 := 0
  expect      : Bool := false
  s           : ByteSeq := []
  f           : Frame := ⟨0, 0, 0, 0⟩
  port        : PortId := 0
  baud        : Nat := 0
  readTimeout : Nat := 0
  timeout     : Nat := 0
deriving DecidableEq, Repr, Inhabited

/-- One transaction at the block's interface: an operation symbol with its operands (R74), or bytes on a stream (R78). -/
inductive Transaction where
  | operation (opSel : BitVec 5) (operands : Operands)
  | frame (dir : Direction) (bytes : ByteSeq)
deriving DecidableEq, Repr, Inhabited

/-! ## The environment's answers -/

/-- How the environment answers `TS.OPEN` (R176). On `ok` the buffers hold whatever it says (U9). -/
inductive OpenAnswer where
  | ok (unread unsent : ByteSeq)
  | error (msg : Message)
deriving DecidableEq, Repr, Inhabited

/-- How the environment answers `TS.WRITE` (R179). On `error`, `sent` more bytes of the buffered output have left (U11). -/
inductive WriteAnswer where
  | ok
  | error (sent : Nat)
deriving DecidableEq, Repr, Inhabited

/-- How the environment answers `TS.READ` (R180): the bytes that come in during the wait, or a failure (log 29). -/
inductive ReadAnswer where
  | arrived (bytes : ByteSeq)
  | error
deriving DecidableEq, Repr, Inhabited

end Sys2Proof
end

