-- ==== Sys2Proof/Config.lean ====
section
/-! DEFINITION. The parameters of R7 and the free values: what the spec leaves to the environment or leaves unspecified. -/

namespace Sys2Proof

/-- `HEADER` (R7). -/
def Config.header : Byte := 0xA0#8
/-- `ADDR_MIN` (R7). -/
def Config.addrMin : Byte := 1#8
/-- `ADDR_MAX` (R7). -/
def Config.addrMax : Byte := 254#8
/-- `FRAME_LEN` (R7). -/
def Config.frameLen : Nat := 4
/-- `BAUD`, the default of `TS.OPEN` (R7, D23). -/
def Config.baud : Nat := 9600

/-- `READ_TIMEOUT`, a parameter for which the spec gives no value (R7, R187, D22; log 18). -/
opaque Config.readTimeout : Nat

/-! The free values. Each is applied to the counter `env.draws`, so every draw is a new one (log 6). -/

/-- The environment's answer to a `TS.OPEN` for which no answer is listed (R176). -/
opaque Config.freeOpen : Nat → OpenAnswer
/-- The environment's answer to a `TS.WRITE` for which no answer is listed (R179). -/
opaque Config.freeWrite : Nat → WriteAnswer
/-- The environment's answer to a `TS.READ` for which no answer is listed (R180, R183). -/
opaque Config.freeRead : Nat → ReadAnswer
/-- How many buffered bytes have left, where no number is listed (R30; log 11). -/
opaque Config.freeDrain : Nat → Nat
/-- Which bytes the device has sent, where none are listed (R43, R183; log 29). -/
opaque Config.freeArrival : Nat → ByteSeq
/-- What the operand latches hold once an exchange has returned: unspecified (R26, U8; log 8). -/
opaque Config.freeLatches : Nat → Latches

end Sys2Proof
end

