-- ==== Sys2Proof/Syntax.lean ====
section
/-! DEFINITION. The instructions: one constructor per row of spec/opcode_table.json. -/

namespace Sys2Proof

/-- The 28 rows of the opcode table. Operand names and types are those of R75. -/
inductive Instr where
  /-- `CMD.OFF` (R81) -/
  | cmdOff (relay : Byte)
  /-- `CMD.ON` (R82) -/
  | cmdOn (relay : Byte)
  /-- `CMD.OFF.ACK` (R83) -/
  | cmdOffAck (relay : Byte)
  /-- `CMD.ON.ACK` (R84) -/
  | cmdOnAck (relay : Byte)
  /-- `CMD.TOGGLE` (R85) -/
  | cmdToggle (relay : Byte)
  /-- `CMD.QUERY` (R86) -/
  | cmdQuery (relay : Byte)
  /-- `RSP.OFF` (R107) -/
  | rspOff (addr : Byte)
  /-- `RSP.ON` (R108) -/
  | rspOn (addr : Byte)
  /-- `RSP.OFF.ACK` (R109) -/
  | rspOffAck (addr : Byte)
  /-- `RSP.ON.ACK` (R110) -/
  | rspOnAck (addr : Byte)
  /-- `RSP.UNKNOWN` (R111) -/
  | rspUnknown (addr : Byte) (status : Byte)
  /-- `ENC.SELECT` (R80) -/
  | encSelect (action : Action) (expect : Bool)
  /-- `ENC.FRAME` (R87) -/
  | encFrame (relay : Byte) (op : Byte)
  /-- `ENC.ACTION` (R89) -/
  | encAction (relay : Byte) (action : Action) (expect : Bool)
  /-- `DEC.FRAME` (R100) -/
  | decFrame (bytes : ByteSeq)
  /-- `DEC.MAP` (R106) -/
  | decMap (code : Byte)
  /-- `RSS.GET` (R120) -/
  | rssGet (a : Byte)
  /-- `RSS.SET` (R121) -/
  | rssSet (a : Byte) (v : RelayState)
  /-- `RSS.INVALIDATE` (R122) -/
  | rssInvalidate (a : Byte)
  /-- `CURRENTSTATE` (R123) -/
  | currentState (a : Byte)
  /-- `EXECUTE` (R130) -/
  | execute (relay : Byte) (action : Action) (expect : Bool)
  /-- `CONNECT` (R148) -/
  | connect (port : PortId)
  /-- `DISCONNECT` (R149) -/
  | disconnect
  /-- `TS.OPEN` (R176) -/
  | tsOpen (port : PortId) (baud : Nat) (readTimeout : Nat)
  /-- `TS.CLOSE` (R177) -/
  | tsClose
  /-- `TS.FLUSH` (R178) -/
  | tsFlush
  /-- `TS.WRITE` (R179) -/
  | tsWrite (f : Frame)
  /-- `TS.READ` (R180) -/
  | tsRead (timeout : Nat)
deriving DecidableEq, Repr

end Sys2Proof
end

