-- ==== Sys2Proof/WellFormed.lean ====
section
/-! DEFINITION. Which instructions the encoding admits: the constraints of the opcode table. -/

namespace Sys2Proof

/-- `RelayAddress`: a byte in 1 to 254 inclusive (R11). -/
def isRelayAddress (relay : Byte) : Bool := decide (1 ≤ relay.toNat ∧ relay.toNat ≤ 254)

/-- A command names a relay address (R69, R88); `RSP.UNKNOWN` is a status code outside 0x00 to 0x03 (R111). Every other
operand is admitted at every value of its type: `EXECUTE` and `ENC.FRAME` answer a bad address with a result (R161). -/
def Instr.wellFormed : Instr → Bool
  | .cmdOff relay | .cmdOn relay | .cmdOffAck relay | .cmdOnAck relay
  | .cmdToggle relay | .cmdQuery relay => isRelayAddress relay
  | .rspUnknown _ status => decide (4 ≤ status.toNat)
  | .rspOff _ | .rspOn _ | .rspOffAck _ | .rspOnAck _ => true
  | .encSelect _ _ | .encFrame _ _ | .encAction _ _ _ | .decFrame _ | .decMap _ => true
  | .rssGet _ | .rssSet _ _ | .rssInvalidate _ | .currentState _ => true
  | .execute _ _ _ | .connect _ | .disconnect => true
  | .tsOpen _ _ _ | .tsClose | .tsFlush | .tsWrite _ | .tsRead _ => true

end Sys2Proof
end

