-- ==== Sys2Proof/Decode.lean ====
section
/-! DEFINITION. Frames and their checks (R60 to R63, R100 to R105), the codes of R71 and R72, the decoder of transactions,
total and rejecting by name, and the encoder. -/

namespace Sys2Proof

/-! ## Frames -/

/-- The checksum of three bytes, carry discarded (R62). -/
def checksum (b0 b1 b2 : Byte) : Byte := (b0 + b1) + b2

/-- A frame in wire order: header first, checksum last (R44). -/
def Frame.bytes (f : Frame) : ByteSeq := [f.header, f.addr, f.op, f.csum]

/-- The one well-formed frame with this address and opcode byte (R63). -/
def mkFrame (addr op : Byte) : Frame :=
  ⟨Config.header, addr, op, checksum Config.header addr op⟩

/-- Length, then checksum over the bytes present, then header (R101 to R104). -/
def checkFrame : ByteSeq → Except DecodeError Frame
  | [b0, b1, b2, b3] =>
    if b3 ≠ checksum b0 b1 b2 then .error .checksumError
    else if b0 ≠ Config.header then .error .headerError
    else .ok ⟨b0, b1, b2, b3⟩
  | _ => .error .lengthError

/-- The range test of R88: two unsigned comparisons. -/
def relayInRange (relay : Byte) : Bool := Config.addrMin ≤ relay && relay ≤ Config.addrMax

/-! ## Codes of the enumerations -/

/-- `Action` in 2 bits (R71). -/
def Action.toCode : Action → BitVec 2
  | .turnOff => 0b00#2 | .turnOn => 0b01#2 | .toggle => 0b10#2 | .queryStatus => 0b11#2

/-- All four codes are used (R71). -/
def Action.ofCode (c : BitVec 2) : Action :=
  if c = 0b00#2 then .turnOff else if c = 0b01#2 then .turnOn else if c = 0b10#2 then .toggle else .queryStatus

/-- `RelayState` in 2 bits `{known, on}` (R72). -/
def RelayState.toCode : RelayState → BitVec 2
  | .unknown => 0b00#2 | .off => 0b10#2 | .on => 0b11#2

/-- The code 0b01 is reserved (R72, U2). -/
def RelayState.ofCode (c : BitVec 2) : Option RelayState :=
  if c = 0b00#2 then some .unknown else if c = 0b10#2 then some .off else if c = 0b11#2 then some .on else none

/-! ## The decoder -/

/-- Why a transaction is not an instruction. -/
inductive DecodeRefusal where
  /-- the bytes are no well-formed frame: the reason DEC gives (R68) -/
  | badFrame (e : DecodeError)
  /-- a frame to the device whose address byte is 0x00 or 0xFF (R69) -/
  | commandAddress (addr : Byte)
  /-- a frame to the device whose opcode byte is 0x06 to 0xFF: no command (R67) -/
  | commandOpcode (op : Byte)
  /-- `op_sel` 0x11 to 0x1F (R74, U3) -/
  | unassignedOperation (opSel : BitVec 5)
  /-- the reserved `RelayState` code 0b01 (R72, U2) -/
  | reservedRelayState
deriving DecidableEq, Repr

/-- The command of a well-formed frame on the TX stream (R64). -/
def commandOf (f : Frame) : Except DecodeRefusal Instr :=
  if relayInRange f.addr then
    if f.op = 0x00#8 then .ok (.cmdOff f.addr)
    else if f.op = 0x01#8 then .ok (.cmdOn f.addr)
    else if f.op = 0x02#8 then .ok (.cmdOffAck f.addr)
    else if f.op = 0x03#8 then .ok (.cmdOnAck f.addr)
    else if f.op = 0x04#8 then .ok (.cmdToggle f.addr)
    else if f.op = 0x05#8 then .ok (.cmdQuery f.addr)
    else .error (.commandOpcode f.op)
  else .error (.commandAddress f.addr)

/-- The response class of a well-formed frame on the RX stream: any address, any status code (R66, R68, R112). -/
def responseOf (f : Frame) : Instr :=
  if f.op = 0x00#8 then .rspOff f.addr
  else if f.op = 0x01#8 then .rspOn f.addr
  else if f.op = 0x02#8 then .rspOffAck f.addr
  else if f.op = 0x03#8 then .rspOnAck f.addr
  else .rspUnknown f.addr f.op

/-- Bytes on a stream (R78: the stream tells the direction). -/
def decodeBytes (dir : Direction) (bytes : ByteSeq) : Except DecodeRefusal Instr :=
  match checkFrame bytes with
  | .error e => .error (.badFrame e)
  | .ok f =>
    match dir with
    | .toDevice => commandOf f
    | .toBlock => .ok (responseOf f)

/-- The operation select codes of R74. -/
def decodeOperation (opSel : BitVec 5) (o : Operands) : Except DecodeRefusal Instr :=
  match opSel.toNat with
  | 0x00 => .ok (.encSelect (.ofCode o.action) o.expect)
  | 0x01 => .ok (.encFrame o.relay o.op)
  | 0x02 => .ok (.encAction o.relay (.ofCode o.action) o.expect)
  | 0x03 => .ok (.decFrame o.s)
  | 0x04 => .ok (.decMap o.code)
  | 0x05 => .ok (.rssGet o.a)
  | 0x06 =>
    match RelayState.ofCode o.v with
    | some v => .ok (.rssSet o.a v)
    | none => .error .reservedRelayState
  | 0x07 => .ok (.rssInvalidate o.a)
  | 0x08 => .ok (.currentState o.a)
  | 0x09 => .ok (.execute o.relay (.ofCode o.action) o.expect)
  | 0x0A => .ok (.connect o.port)
  | 0x0B => .ok .disconnect
  | 0x0C => .ok (.tsOpen o.port o.baud o.readTimeout)
  | 0x0D => .ok .tsClose
  | 0x0E => .ok .tsFlush
  | 0x0F => .ok (.tsWrite o.f)
  | 0x10 => .ok (.tsRead o.timeout)
  | _ => .error (.unassignedOperation opSel)

/-- The instruction a transaction stands for. -/
def decode : Transaction → Except DecodeRefusal Instr
  | .operation opSel o => decodeOperation opSel o
  | .frame dir bytes => decodeBytes dir bytes

/-! ## The encoder -/

/-- The transaction of an instruction, from R64, R66 and R74. -/
def encode : Instr → Transaction
  | .cmdOff relay => .frame .toDevice (mkFrame relay 0x00#8).bytes
  | .cmdOn relay => .frame .toDevice (mkFrame relay 0x01#8).bytes
  | .cmdOffAck relay => .frame .toDevice (mkFrame relay 0x02#8).bytes
  | .cmdOnAck relay => .frame .toDevice (mkFrame relay 0x03#8).bytes
  | .cmdToggle relay => .frame .toDevice (mkFrame relay 0x04#8).bytes
  | .cmdQuery relay => .frame .toDevice (mkFrame relay 0x05#8).bytes
  | .rspOff addr => .frame .toBlock (mkFrame addr 0x00#8).bytes
  | .rspOn addr => .frame .toBlock (mkFrame addr 0x01#8).bytes
  | .rspOffAck addr => .frame .toBlock (mkFrame addr 0x02#8).bytes
  | .rspOnAck addr => .frame .toBlock (mkFrame addr 0x03#8).bytes
  | .rspUnknown addr status => .frame .toBlock (mkFrame addr status).bytes
  | .encSelect action expect => .operation 0x00#5 { action := action.toCode, expect := expect }
  | .encFrame relay op => .operation 0x01#5 { relay := relay, op := op }
  | .encAction relay action expect => .operation 0x02#5 { relay := relay, action := action.toCode, expect := expect }
  | .decFrame bytes => .operation 0x03#5 { s := bytes }
  | .decMap code => .operation 0x04#5 { code := code }
  | .rssGet a => .operation 0x05#5 { a := a }
  | .rssSet a v => .operation 0x06#5 { a := a, v := v.toCode }
  | .rssInvalidate a => .operation 0x07#5 { a := a }
  | .currentState a => .operation 0x08#5 { a := a }
  | .execute relay action expect => .operation 0x09#5 { relay := relay, action := action.toCode, expect := expect }
  | .connect port => .operation 0x0A#5 { port := port }
  | .disconnect => .operation 0x0B#5 {}
  | .tsOpen port baud readTimeout => .operation 0x0C#5 { port := port, baud := baud, readTimeout := readTimeout }
  | .tsClose => .operation 0x0D#5 {}
  | .tsFlush => .operation 0x0E#5 {}
  | .tsWrite f => .operation 0x0F#5 { f := f }
  | .tsRead timeout => .operation 0x10#5 { timeout := timeout }

/-! ## Words of the opcode table -/

/-- The bytes of a table word of `nbits` bits: byte 0 of a frame is the most significant (R61). -/
def tableBytes (nbits w : Nat) : ByteSeq :=
  (List.range (nbits / 8)).reverse.map fun k => BitVec.ofNat 8 (w / 256 ^ k)

/-- The transaction of a table word: a 5-bit `op_sel` with every operand field zero or empty, or the bytes of a frame.
DESIGN CHOICE: a frame that is a command is taken on the TX stream, any other on the RX stream (R78; log 3). -/
def tableTransaction (nbits w : Nat) : Transaction :=
  if nbits ≤ 8 ∧ w < 32 then .operation (BitVec.ofNat 5 w) {}
  else
    match decode (.frame .toDevice (tableBytes nbits w)) with
    | .ok _ => .frame .toDevice (tableBytes nbits w)
    | .error _ => .frame .toBlock (tableBytes nbits w)

/-- What the decoder reads from a table word. -/
def decodeTableWord (nbits w : Nat) : Option Instr := (decode (tableTransaction nbits w)).toOption

end Sys2Proof
end

