-- ==== Sys2Proof/Machine/State.lean ====
section
/-! DEFINITION. The state of the block and of its interface, results, refusals, and the state after reset. -/

namespace Sys2Proof.Machine

/-- The RSS space as a list of (index, entry) pairs: indices strictly rising, no entry `unknown`, which is what an
unlisted index reads as ("defaults to Unknown for unseen addresses", R21, R120; log 20). -/
abbrev Memory := List (Nat × RelayState)

/-- The canonical form: strictly rising indices below 256, no `unknown` listed. -/
abbrev Memory.wf (m : Memory) : Prop :=
  m.Pairwise (fun c d => c.1 < d.1) ∧ ∀ c ∈ m, c.1 < 256 ∧ c.2 ≠ .unknown

/-- The value an operation delivers to its issuer (R75, R160). -/
inductive Result where
  /-- the operation returns no value (`RSS.SET`, `RSS.INVALIDATE`, `DISCONNECT`, `TS.CLOSE`, `TS.FLUSH`) -/
  | nothing
  /-- `Ok` of `CONNECT`, `TS.OPEN`, `TS.WRITE` -/
  | ok
  /-- `Ok(addr, state, code)` of `DEC.FRAME` -/
  | decoded (addr : Byte) (state : DecodedState) (code : Byte)
  /-- the frame of `ENC.FRAME`, `ENC.ACTION` and the `CMD` rows -/
  | frame (f : Frame)
  /-- the opcode of `ENC.SELECT` -/
  | opcode (op : Byte)
  /-- the state of `DEC.MAP` -/
  | mapped (state : DecodedState)
  /-- the entry of `RSS.GET` and `CURRENTSTATE` -/
  | entry (v : RelayState)
  /-- `Bytes(s)` of `TS.READ` -/
  | bytes (s : ByteSeq)
  | sent
  | statusReceived (addr : Byte) (state : DecodedState) (code : Byte)
  | timeout
  | connectionLost
  | readError
  | invalidAddress (relay : Byte)
  | notConnected
  | communicationError
  | lengthError
  | checksumError
  | headerError
  | openError (msg : Message)
  | writeError
deriving DecidableEq, Repr

/-- One call on the platform device, as a recording transport stub sees it (R132, R152). -/
inductive TsCall where
  | openPort (port : PortId) (baud : Nat) (readTimeout : Nat)
  | close
  | flush
  | write (f : Frame)
  | read (timeout : Nat)
deriving DecidableEq, Repr

/-- The environment's choices: the answers listed are taken in order, and where none is listed a free value is drawn
(R175, R183; log 6). -/
structure Env where
  opens  : List OpenAnswer
  writes : List WriteAnswer
  reads  : List ReadAnswer
  /-- how many bytes of buffered output have left by each step that begins on an open session (log 11) -/
  drains : List Nat
  /-- the bytes that have come in by each step that begins on an open session (log 29) -/
  arrivals : List ByteSeq
  /-- the counter of free values -/
  draws  : Nat
deriving DecidableEq, Repr

/-- The whole state: the block's (`rss`, `conn`, `phase`, `cur`: R21, R23, R25, R26), the TS's buffers (R30), and the
model's own interface fields (log 1, 4, 5, 6). -/
structure State where
  rss    : Memory
  conn   : ConnectionState
  phase  : Phase
  cur    : Latches
  /-- received and not yet read -/
  rxBuf  : ByteSeq
  /-- accepted for sending and not yet sent -/
  txBuf  : ByteSeq
  /-- every byte that has left on the line, oldest first -/
  line   : ByteSeq
  /-- every TS call made, oldest first -/
  calls  : List TsCall
  env    : Env
  /-- transactions waiting at the block's port, next first -/
  inbox  : List Transaction
  /-- what the last step delivered to its issuer; no rule reads it (R27) -/
  result : Option Result
deriving DecidableEq, Repr

/-- Nothing in the block traps, hangs or is fatal: every failure is a returned value (R185, R189). So no fault exists. -/
inductive Fault : Type
deriving DecidableEq, Repr

/-- Where the model gives no meaning. Each is safe: the model stops where a real block might go on. -/
inductive Refusal where
  /-- raised by `exec` alone, for an instruction whose meaning is not written: safe -/
  | notModelled (mnemonic : String)
  /-- raised by `TS.FLUSH`, `TS.WRITE`, `TS.READ`, and by SEQ's calls of them, on a closed session (U16): safe -/
  | closedSession
  /-- raised by `TS.OPEN` on an open session: "Called with `conn = Closed` only" (R176; log 13): safe -/
  | openSession
  /-- raised by `step` on a transaction that is no instruction (U2, U3, R67, R69; log 16): safe -/
  | undecodable (reason : DecodeRefusal)
deriving DecidableEq, Repr

/-- The state right after reset (R32, R201). DESIGN CHOICE for the values the spec leaves unspecified: the latches (log 7),
the TS buffers (log 9); and for the model's own fields (log 1, 4, 5, 6). -/
def State.reset : State where
  rss    := []
  conn   := .closed
  phase  := .idle
  cur    := ⟨0x00#8, .turnOff, false⟩
  rxBuf  := []
  txBuf  := []
  line   := []
  calls  := []
  env    := ⟨[], [], [], [], [], 0⟩
  inbox  := []
  result := none

end Sys2Proof.Machine
end

