-- ==== Sys2Proof/Machine/Flags.lean ====
section
/-! DEFINITION. The block has no flags or condition codes (R27). What stands in their place is the 4-bit code of a result,
whose bit 3 marks a failure (R73). -/

namespace Sys2Proof.Machine

/-- The result code (R73, R160). Operations that cannot fail return no code. DEDUCED: the frame of `ENC.FRAME` and the bytes of
`TS.READ` are their operations' success, `Ok` (log 23). -/
def Result.code : Result → Option (BitVec 4)
  | .nothing | .opcode _ | .mapped _ | .entry _ => none
  | .ok | .decoded _ _ _ | .frame _ | .bytes _ => some 0x0#4
  | .sent => some 0x1#4
  | .statusReceived _ _ _ => some 0x2#4
  | .timeout => some 0x3#4
  | .connectionLost => some 0x4#4
  | .readError => some 0x7#4
  | .invalidAddress _ => some 0x8#4
  | .notConnected => some 0x9#4
  | .communicationError => some 0xA#4
  | .lengthError => some 0xB#4
  | .checksumError => some 0xC#4
  | .headerError => some 0xD#4
  | .openError _ => some 0xE#4
  | .writeError => some 0xF#4

/-- "Bit 3 set means a failure" (R73). -/
def Result.isFailure (r : Result) : Bool :=
  match r.code with
  | some c => c.getLsbD 3
  | none => false

end Sys2Proof.Machine
end

