-- ==== Sys2Proof/Machine/Operands.lean ====
section
/-! DEFINITION. Operands: opcode selection, whether a response is awaited, the status map and its narrowing. The range test
of a relay operand is `relayInRange` in Decode.lean. -/

namespace Sys2Proof.Machine

/-- `ENC.SELECT`: the opcode of an action (R64, R80). -/
def selectOp : Action → Bool → Byte
  | .turnOff, false => 0x00#8
  | .turnOn, false => 0x01#8
  | .turnOff, true => 0x02#8
  | .turnOn, true => 0x03#8
  | .toggle, _ => 0x04#8
  | .queryStatus, _ => 0x05#8

/-- Whether SEQ reads a response after the command (R92). -/
def awaits (action : Action) (expect : Bool) : Bool := expect || action == .queryStatus

/-- `ENC.FRAME`: a frame, or none where the address is refused (R87, R88). -/
def frameOf (relay op : Byte) : Option Frame :=
  if relayInRange relay then some (mkFrame relay op) else none

/-- `DEC.MAP`: the state a status code stands for (R66, R106). -/
def stateOf (code : Byte) : DecodedState :=
  if code = 0x00#8 ∨ code = 0x02#8 then .off
  else if code = 0x01#8 ∨ code = 0x03#8 then .on
  else .unknown code

/-- From a decode result to a table entry: the raw code is dropped (R125). -/
def narrow : DecodedState → RelayState
  | .off => .off
  | .on => .on
  | .unknown _ => .unknown

end Sys2Proof.Machine
end

