-- ==== Sys2Proof/Machine/Ops.lean ====
section
/-! DEFINITION. The named operations: the table, delivering a result, raising a failure, the environment's answers, the
calls on the platform device TS, and the ends of an exchange. -/

namespace Sys2Proof.Machine

/-! ## The table -/

/-- One entry; an index not listed reads `Unknown` (R21, R120). -/
def Memory.read : Memory → Byte → RelayState
  | [], _ => .unknown
  | c :: m, a => if c.1 = a.toNat then c.2 else Memory.read m a

/-- `m` with `v` listed at index `k`. -/
def Memory.put (k : Nat) (v : RelayState) : Memory → Memory
  | [] => [(k, v)]
  | c :: m =>
    if k < c.1 then (k, v) :: c :: m
    else if k = c.1 then (k, v) :: m
    else c :: Memory.put k v m

/-- Write one entry (R121), keeping the canonical form: writing `Unknown` takes the index out of the list. -/
def Memory.write (m : Memory) (a : Byte) (v : RelayState) : Memory :=
  if v = .unknown then m.filter (fun c => c.1 ≠ a.toNat) else m.put a.toNat v

namespace State

/-- `RSS[a]` (R120). -/
def rssRead (s : State) (a : Byte) : RelayState := s.rss.read a

/-- `RSS[a] <- v` (R121). -/
def rssWrite (s : State) (a : Byte) (v : RelayState) : State := { s with rss := s.rss.write a v }

/-- `RSS[a] <- Unknown` (R122). -/
def invalidate (s : State) (a : Byte) : State := s.rssWrite a .unknown

/-! ## Results -/

/-- `return V`: the operation ends with result `V` (R10). -/
def ret (s : State) (r : Result) : State := { s with result := some r }

/-- `raise E(info)`: the operation ends at once with the failure as its result; nothing is saved and no mode changes
(R10, R185). There is no return from it: the next operation is accepted as after a success (R186). -/
def raise (s : State) (e : Result) : State := s.ret e

/-- A step of an exchange that returns nothing yet: on to the next phase. -/
def goTo (s : State) (p : Phase) : State := { s with phase := p, result := none }

/-- The end of an exchange: the value is delivered, `phase = IDLE` (R186), and the latches hold no specified value any
more (R26, U8; log 8). -/
def finish (s : State) (r : Result) : State :=
  { s with
    phase := .idle
    cur := Config.freeLatches s.env.draws
    env := { s.env with draws := s.env.draws + 1 }
    result := some r }

/-- A host operation that finds `phase` not `IDLE` has no step and waits (R52, R131): it stands first at the port
(log 14). -/
def hold (s : State) (i : Instr) : State := { s with inbox := encode i :: s.inbox, result := none }

end State

/-! ## The environment's answers -/

/-- The answer to a `TS.OPEN`, and what is left of the environment's answers. -/
def Env.takeOpen (e : Env) : OpenAnswer × Env :=
  match e.opens with
  | a :: as => (a, { e with opens := as })
  | [] => (Config.freeOpen e.draws, { e with draws := e.draws + 1 })

/-- The answer to a `TS.WRITE`. -/
def Env.takeWrite (e : Env) : WriteAnswer × Env :=
  match e.writes with
  | a :: as => (a, { e with writes := as })
  | [] => (Config.freeWrite e.draws, { e with draws := e.draws + 1 })

/-- The answer to a `TS.READ`. -/
def Env.takeRead (e : Env) : ReadAnswer × Env :=
  match e.reads with
  | a :: as => (a, { e with reads := as })
  | [] => (Config.freeRead e.draws, { e with draws := e.draws + 1 })

/-- Which bytes have come in by now. -/
def Env.takeArrival (e : Env) : ByteSeq × Env :=
  match e.arrivals with
  | bs :: bss => (bs, { e with arrivals := bss })
  | [] => (Config.freeArrival e.draws, { e with draws := e.draws + 1 })

/-- How many bytes of buffered output have left by now. -/
def Env.takeDrain (e : Env) : Nat × Env :=
  match e.drains with
  | n :: ns => (n, { e with drains := ns })
  | [] => (Config.freeDrain e.draws, { e with draws := e.draws + 1 })

/-! ## TS, the platform device (R175 to R181) -/

namespace State

/-- The recording stub. -/
def record (s : State) (c : TsCall) : State := { s with calls := s.calls ++ [c] }

/-- Between two steps "only the environment moves" (R147): on an open session it has sent some of the buffered output, oldest
bytes first (R30, R44; log 11), and any bytes the device sent have come in and wait unread, in order of arrival (R43, R183,
R211; log 29). DESIGN CHOICE: the move stands at the start of the step. -/
def envMove (s : State) : State :=
  match s.conn with
  | .closed => s
  | .openOn _ =>
    { s with
      env := s.env.takeDrain.2.takeArrival.2
      line := s.line ++ s.txBuf.take s.env.takeDrain.1
      txBuf := s.txBuf.drop s.env.takeDrain.1
      rxBuf := s.rxBuf ++ s.env.takeDrain.2.takeArrival.1 }

/-- The session ends: `Closed`, and the bytes still in the buffers are lost (R177, R181; log 10). -/
def hangUp (s : State) : State := { s with conn := .closed, rxBuf := [], txBuf := [] }

/-- `TS.CLOSE` (R177): total and idempotent. -/
def tsClose (s : State) : State := (s.record .close).hangUp

/-- `TS.FLUSH` (R178, R53): unread input and unsent output are discarded; it has no failure. -/
def tsFlush (s : State) : State := { s.record .flush with rxBuf := [], txBuf := [] }

/-- `TS.OPEN` (R176): the message of an `OpenError`, or none for `Ok`. On `Ok` the buffers hold what the environment says
(U9); on `OpenError` the session stays as it was. -/
def tsOpen (s : State) (port : PortId) (baud readTimeout : Nat) : Option Message × State :=
  let s1 := s.record (.openPort port baud readTimeout)
  let e := s1.env.takeOpen.2
  match s1.env.takeOpen.1 with
  | .ok unread unsent => (none, { s1 with env := e, conn := .openOn port, rxBuf := unread, txBuf := unsent })
  | .error msg => (some msg, { s1 with env := e })

/-- `TS.WRITE` (R179): whether it answered `Ok`. On `Ok` the bytes of the frame are accepted for sending, in order; on
`WriteError` some bytes may have left (U11) and the TS has closed itself (R181). -/
def tsWrite (s : State) (f : Frame) : Bool × State :=
  let s1 := s.record (.write f)
  let e := s1.env.takeWrite.2
  match s1.env.takeWrite.1 with
  | .ok => (true, { s1 with env := e, txBuf := s1.txBuf ++ f.bytes })
  | .error n => (false, { s1 with env := e, line := s1.line ++ (s1.txBuf ++ f.bytes).take n }.hangUp)

/-- `TS.READ` (R180): the bytes, or none for `ReadError`. It asks for 4: it takes the first four of what has arrived since
the flush, or all of it where the wait ends first; the rest stays unread. On `ReadError` the TS has closed itself. DESIGN CHOICE:
what came in before the call stands in `rxBuf`, what comes in during the wait is the answer's (log 28, 29). -/
def tsRead (s : State) (timeout : Nat) : Option ByteSeq × State :=
  let s1 := s.record (.read timeout)
  let e := s1.env.takeRead.2
  match s1.env.takeRead.1 with
  | .arrived bs =>
    (some ((s1.rxBuf ++ bs).take Config.frameLen), { s1 with env := e, rxBuf := (s1.rxBuf ++ bs).drop Config.frameLen })
  | .error => (none, { s1 with env := e }.hangUp)

end State

/-! ## DEC's result -/

/-- The result that names a decode failure (R160). -/
def errorResult : DecodeError → Result
  | .lengthError => .lengthError
  | .checksumError => .checksumError
  | .headerError => .headerError

/-- `DEC.FRAME` (R100): address, state and raw code of a well-formed frame, or the first check that fails. -/
def decodeFrame (bytes : ByteSeq) : Except DecodeError (Byte × DecodedState × Byte) :=
  match checkFrame bytes with
  | .error e => .error e
  | .ok f => .ok (f.addr, stateOf f.op, f.op)

/-- The result value of `DEC.FRAME`. -/
def decodeResult (bytes : ByteSeq) : Result :=
  match decodeFrame bytes with
  | .error e => errorResult e
  | .ok (addr, state, code) => .decoded addr state code

/-- A valid answer in phase `READ` (R145, R146): the entry of the address found in the response is written, whatever was
commanded, and the outcome names that address. -/
def State.statusReceived (s : State) (addr : Byte) (state : DecodedState) (code : Byte) : State :=
  (s.rssWrite addr (narrow state)).finish (.statusReceived addr state code)

/-- A well-formed response frame reaches the block: DEC decodes it (R105), and in phase `READ` SEQ takes it as the answer
(R145; log 15). -/
def State.response (s : State) (addr code : Byte) : State :=
  match s.phase with
  | .read => s.statusReceived addr (stateOf code) code
  | .idle | .flush | .write => s.ret (.decoded addr (stateOf code) code)

end Sys2Proof.Machine
end

