-- ==== Sys2Proof/Machine/Dec.lean ====
section
/-! DEFINITION. DEC: frame validation, the status map, and the five response classes. -/

namespace Sys2Proof.Machine

/-- `RSP.OFF` (R107): status 0x00. -/
def execRspOff (addr : Byte) (s : State) : Host.Outcome State Fault Refusal := .next (s.response addr 0x00#8)

/-- `RSP.ON` (R108): status 0x01. -/
def execRspOn (addr : Byte) (s : State) : Host.Outcome State Fault Refusal := .next (s.response addr 0x01#8)

/-- `RSP.OFF.ACK` (R109): status 0x02. -/
def execRspOffAck (addr : Byte) (s : State) : Host.Outcome State Fault Refusal := .next (s.response addr 0x02#8)

/-- `RSP.ON.ACK` (R110): status 0x03. -/
def execRspOnAck (addr : Byte) (s : State) : Host.Outcome State Fault Refusal := .next (s.response addr 0x03#8)

/-- `RSP.UNKNOWN` (R111): any other status; a success, not an error. -/
def execRspUnknown (addr status : Byte) (s : State) : Host.Outcome State Fault Refusal := .next (s.response addr status)

/-- `DEC.FRAME` (R100 to R105): it reads and writes no state, in any phase. -/
def execDecFrame (bytes : ByteSeq) (s : State) : Host.Outcome State Fault Refusal := .next (s.ret (decodeResult bytes))

/-- `DEC.MAP` (R106). -/
def execDecMap (code : Byte) (s : State) : Host.Outcome State Fault Refusal := .next (s.ret (.mapped (stateOf code)))

end Sys2Proof.Machine
end

