-- ==== Sys2Proof/Machine/Enc.lean ====
section
/-! DEFINITION. ENC: opcode selection, frame assembly, and the six command frames. None writes any state. -/

namespace Sys2Proof.Machine

/-- The result value of `ENC.FRAME` (R87, R88). -/
def State.returnFrame (s : State) (relay op : Byte) : State :=
  match frameOf relay op with
  | some f => s.ret (.frame f)
  | none => s.raise (.invalidAddress relay)

/-- `CMD.OFF` (R81, R76): `ENC.FRAME(relay, 0x00)`. -/
def execCmdOff (relay : Byte) (s : State) : Host.Outcome State Fault Refusal := .next (s.returnFrame relay 0x00#8)

/-- `CMD.ON` (R82, R76). -/
def execCmdOn (relay : Byte) (s : State) : Host.Outcome State Fault Refusal := .next (s.returnFrame relay 0x01#8)

/-- `CMD.OFF.ACK` (R83, R76). -/
def execCmdOffAck (relay : Byte) (s : State) : Host.Outcome State Fault Refusal := .next (s.returnFrame relay 0x02#8)

/-- `CMD.ON.ACK` (R84, R76). -/
def execCmdOnAck (relay : Byte) (s : State) : Host.Outcome State Fault Refusal := .next (s.returnFrame relay 0x03#8)

/-- `CMD.TOGGLE` (R85, R76). -/
def execCmdToggle (relay : Byte) (s : State) : Host.Outcome State Fault Refusal := .next (s.returnFrame relay 0x04#8)

/-- `CMD.QUERY` (R86, R76). -/
def execCmdQuery (relay : Byte) (s : State) : Host.Outcome State Fault Refusal := .next (s.returnFrame relay 0x05#8)

/-- `ENC.SELECT` (R80). -/
def execEncSelect (action : Action) (expect : Bool) (s : State) : Host.Outcome State Fault Refusal :=
  .next (s.ret (.opcode (selectOp action expect)))

/-- `ENC.FRAME` (R87, R88): any opcode byte encodes. -/
def execEncFrame (relay op : Byte) (s : State) : Host.Outcome State Fault Refusal := .next (s.returnFrame relay op)

/-- `ENC.ACTION` (R89). -/
def execEncAction (relay : Byte) (action : Action) (expect : Bool) (s : State) : Host.Outcome State Fault Refusal :=
  .next (s.returnFrame relay (selectOp action expect))

end Sys2Proof.Machine
end

