-- ==== Sys2Proof/Machine/Rss.lean ====
section
/-! DEFINITION. RSS: the table's operations, total on all 256 indices (R127), and the host's view of it. -/

namespace Sys2Proof.Machine

/-- `RSS.GET` (R120). -/
def execRssGet (a : Byte) (s : State) : Host.Outcome State Fault Refusal := .next (s.ret (.entry (s.rssRead a)))

/-- `RSS.SET` (R121). -/
def execRssSet (a : Byte) (v : RelayState) (s : State) : Host.Outcome State Fault Refusal :=
  .next ((s.rssWrite a v).ret .nothing)

/-- `RSS.INVALIDATE` (R122). -/
def execRssInvalidate (a : Byte) (s : State) : Host.Outcome State Fault Refusal := .next ((s.invalidate a).ret .nothing)

/-- `CURRENTSTATE` (R123): a host operation, accepted in phase `IDLE` only (R131). -/
def execCurrentState (a : Byte) (s : State) : Host.Outcome State Fault Refusal :=
  match s.phase with
  | .idle => .next (s.ret (.entry (s.rssRead a)))
  | .flush | .write | .read => .next (s.hold (.currentState a))

end Sys2Proof.Machine
end

