-- ==== Sys2Proof/Machine/Seq.lean ====
section
/-! DEFINITION. SEQ: the acceptance of `EXECUTE`, its three later phases, `CONNECT` and `DISCONNECT`. -/

namespace Sys2Proof.Machine

/-! ## Host operations -/

/-- `EXECUTE`, phase `IDLE`: address check, connection check, latch (R130 to R134). The exchange then goes on in the steps
`seqFlush`, `seqWrite` and `seqRead`; while one is in progress a second `EXECUTE` waits (R131). -/
def execExecute (relay : Byte) (action : Action) (expect : Bool) (s : State) : Host.Outcome State Fault Refusal :=
  match s.phase with
  | .flush | .write | .read => .next (s.hold (.execute relay action expect))
  | .idle =>
    if relayInRange relay then
      match s.conn with
      | .closed => .next (s.raise .notConnected)
      | .openOn _ => .next ({ s with cur := ⟨relay, action, expect⟩ }.goTo .flush)
    else .next (s.raise (.invalidAddress relay))

/-- `CONNECT` with `phase = IDLE` (R148): one live connection at a time, so an open one is closed first. -/
def State.connect (s : State) (port : PortId) : State :=
  let s1 := match s.conn with
    | .closed => s
    | .openOn _ => s.tsClose
  match s1.tsOpen port Config.baud Config.readTimeout with
  | (none, s2) => s2.ret .ok
  | (some msg, s2) => s2.raise (.openError msg)

/-- `CONNECT` (R148, R131). -/
def execConnect (port : PortId) (s : State) : Host.Outcome State Fault Refusal :=
  match s.phase with
  | .idle => .next (s.connect port)
  | .flush | .write | .read => .next (s.hold (.connect port))

/-- `DISCONNECT` (R149, R131). -/
def execDisconnect (s : State) : Host.Outcome State Fault Refusal :=
  match s.phase with
  | .idle => .next (s.tsClose.ret .nothing)
  | .flush | .write | .read => .next (s.hold .disconnect)

/-! ## The phases of an exchange -/

/-- The optimistic entry of a command sent with no response expected (R138); none for a toggle (R139). -/
def State.optimistic (s : State) : State :=
  match s.cur.action with
  | .turnOn => s.rssWrite s.cur.relay .on
  | .turnOff => s.rssWrite s.cur.relay .off
  | .toggle | .queryStatus => s

/-- A connection lost in the middle of an exchange: close, invalidate, report (R137, R142). -/
def State.lose (s : State) (r : Result) : State := (s.tsClose.invalidate s.cur.relay).finish r

/-- Phase `FLUSH` (R135). -/
def seqFlush (s : State) : Host.Outcome State Fault Refusal :=
  match s.conn with
  | .closed => .refused .closedSession
  | .openOn _ => .next (s.tsFlush.goTo .write)

/-- Phase `WRITE` on an open session: select, encode, write (R136 to R140). `ENC.FRAME` cannot fail here in a state a run
reaches (R33); where it does, its failure ends the exchange (R10; log 17). -/
def State.writePhase (s : State) : State :=
  match frameOf s.cur.relay (selectOp s.cur.action s.cur.expect) with
  | none => s.finish (.invalidAddress s.cur.relay)
  | some f =>
    match s.tsWrite f with
    | (false, s1) => s1.lose .communicationError
    | (true, s1) => if awaits s1.cur.action s1.cur.expect then s1.goTo .read else s1.optimistic.finish .sent

/-- Phase `WRITE`. -/
def seqWrite (s : State) : Host.Outcome State Fault Refusal :=
  match s.conn with
  | .closed => .refused .closedSession
  | .openOn _ => .next s.writePhase

/-- Phase `READ` on an open session: read, decode, update (R141 to R146). -/
def State.readPhase (s : State) : State :=
  match s.tsRead Config.readTimeout with
  | (none, s1) => s1.lose .connectionLost
  | (some [], s1) => (s1.invalidate s1.cur.relay).finish .timeout
  | (some bytes, s1) =>
    match decodeFrame bytes with
    | .error e => (s1.invalidate s1.cur.relay).finish (errorResult e)
    | .ok (addr, state, code) => s1.statusReceived addr state code

/-- Phase `READ`. -/
def seqRead (s : State) : Host.Outcome State Fault Refusal :=
  match s.conn with
  | .closed => .refused .closedSession
  | .openOn _ => .next s.readPhase

end Sys2Proof.Machine
end

