-- ==== Sys2Proof/Machine/Ts.lean ====
section
/-! DEFINITION. The five calls of the platform device as operations of their own. What a call does on a session in the wrong
state is not in the source and is refused (U16; log 12, 13). -/

namespace Sys2Proof.Machine

/-- `TS.OPEN` (R176). -/
def execTsOpen (port : PortId) (baud readTimeout : Nat) (s : State) : Host.Outcome State Fault Refusal :=
  match s.conn with
  | .openOn _ => .refused .openSession
  | .closed =>
    .next (match s.tsOpen port baud readTimeout with
      | (none, s1) => s1.ret .ok
      | (some msg, s1) => s1.raise (.openError msg))

/-- `TS.CLOSE` (R177). -/
def execTsClose (s : State) : Host.Outcome State Fault Refusal := .next (s.tsClose.ret .nothing)

/-- `TS.FLUSH` (R178). -/
def execTsFlush (s : State) : Host.Outcome State Fault Refusal :=
  match s.conn with
  | .closed => .refused .closedSession
  | .openOn _ => .next (s.tsFlush.ret .nothing)

/-- `TS.WRITE` (R179, R164). -/
def execTsWrite (f : Frame) (s : State) : Host.Outcome State Fault Refusal :=
  match s.conn with
  | .closed => .refused .closedSession
  | .openOn _ =>
    .next (match s.tsWrite f with
      | (true, s1) => s1.ret .ok
      | (false, s1) => s1.raise .writeError)

/-- `TS.READ` (R180). -/
def execTsRead (timeout : Nat) (s : State) : Host.Outcome State Fault Refusal :=
  match s.conn with
  | .closed => .refused .closedSession
  | .openOn _ =>
    .next (match s.tsRead timeout with
      | (some bytes, s1) => s1.ret (.bytes bytes)
      | (none, s1) => s1.raise .readError)

end Sys2Proof.Machine
end

