-- ==== Sys2Proof/Machine/Dispatch.lean ====
section
/-! DEFINITION. One arm per instruction, each one call of its meaning. -/

namespace Sys2Proof.Machine

def exec (i : Instr) (s : State) : Host.Outcome State Fault Refusal :=
  match i with
  | .cmdOff relay => Sys2Proof.Machine.execCmdOff relay s
  | .cmdOn relay => Sys2Proof.Machine.execCmdOn relay s
  | .cmdOffAck relay => Sys2Proof.Machine.execCmdOffAck relay s
  | .cmdOnAck relay => Sys2Proof.Machine.execCmdOnAck relay s
  | .cmdToggle relay => Sys2Proof.Machine.execCmdToggle relay s
  | .cmdQuery relay => Sys2Proof.Machine.execCmdQuery relay s
  | .rspOff addr => Sys2Proof.Machine.execRspOff addr s
  | .rspOn addr => Sys2Proof.Machine.execRspOn addr s
  | .rspOffAck addr => Sys2Proof.Machine.execRspOffAck addr s
  | .rspOnAck addr => Sys2Proof.Machine.execRspOnAck addr s
  | .rspUnknown addr status => Sys2Proof.Machine.execRspUnknown addr status s
  | .encSelect action expect => Sys2Proof.Machine.execEncSelect action expect s
  | .encFrame relay op => Sys2Proof.Machine.execEncFrame relay op s
  | .encAction relay action expect => Sys2Proof.Machine.execEncAction relay action expect s
  | .decFrame bytes => Sys2Proof.Machine.execDecFrame bytes s
  | .decMap code => Sys2Proof.Machine.execDecMap code s
  | .rssGet a => Sys2Proof.Machine.execRssGet a s
  | .rssSet a v => Sys2Proof.Machine.execRssSet a v s
  | .rssInvalidate a => Sys2Proof.Machine.execRssInvalidate a s
  | .currentState a => Sys2Proof.Machine.execCurrentState a s
  | .execute relay action expect => Sys2Proof.Machine.execExecute relay action expect s
  | .connect port => Sys2Proof.Machine.execConnect port s
  | .disconnect => Sys2Proof.Machine.execDisconnect s
  | .tsOpen port baud readTimeout => Sys2Proof.Machine.execTsOpen port baud readTimeout s
  | .tsClose => Sys2Proof.Machine.execTsClose s
  | .tsFlush => Sys2Proof.Machine.execTsFlush s
  | .tsWrite f => Sys2Proof.Machine.execTsWrite f s
  | .tsRead timeout => Sys2Proof.Machine.execTsRead timeout s

end Sys2Proof.Machine
end

