-- ==== Sys2Proof/Machine/Accept.lean ====
section
/-! DEFINITION. Phase `IDLE`: taking the next transaction at the port; and what the block does in each phase. -/

namespace Sys2Proof.Machine

/-- What happens with a transaction that is no instruction (log 16). Bytes on the RX stream that are no well-formed frame are
answered by DEC with the check that fails (R68, R100); anything else is refused by name. -/
def reject (t : Transaction) (why : DecodeRefusal) (s : State) : Host.Outcome State Fault Refusal :=
  match t, why with
  | .frame .toBlock _, .badFrame e => .next (s.raise (errorResult e))
  | _, _ => .refused (.undecodable why)

/-- The next transaction leaves the port, is decoded and is run; with none waiting the block holds its state
(R190, R203; log 24). -/
def accept (s : State) : Host.Outcome State Fault Refusal :=
  match s.inbox with
  | [] => .next s
  | t :: rest =>
    match decode t with
    | .ok i => exec i { s with inbox := rest }
    | .error why => reject t why { s with inbox := rest }

/-- What the block does in one step, after the environment has moved: in phase `IDLE` the next transaction, otherwise the
exchange's next phase. While an exchange is in progress nothing is taken from the port (R52, R131). -/
def act (s : State) : Host.Outcome State Fault Refusal :=
  match s.phase with
  | .idle => accept s
  | .flush => seqFlush s
  | .write => seqWrite s
  | .read => seqRead s

end Sys2Proof.Machine
end

