-- ==== Sys2Proof/Machine/Step.lean ====
section
/-! DEFINITION. One atomic step of the block (R48), the environment's move before it. -/

namespace Sys2Proof.Machine

/-- One step: the environment moves (R147, R183), then the block acts. -/
def step (s : State) : Host.Outcome State Fault Refusal := act s.envMove

/-- `s` with the transaction of a table word next at the port, in the phase in which the port is read (log 1). -/
def State.withFetchWord (s : State) (nbits w : Nat) : State :=
  { s with phase := .idle, inbox := tableTransaction nbits w :: s.inbox }

end Sys2Proof.Machine
end

