-- ==== Sys2Proof/Safety.lean ====
section
/-! DEFINITION. The terms in which claims about the block are made: its invariant, what only the host may issue, and what a
step leaves alone. -/

namespace Sys2Proof.Machine

/-- The model's invariant. The table is in canonical form (the model's own form, log 20; the reserved code of R33 item 1 is no
`RelayState` at all). While an exchange is in progress its relay is a relay address (R33 item 3) and the session is open (R33
item 4, here in all three busy phases). R33 items 2 and 5 are statements of their own. -/
structure Inv (s : State) : Prop where
  table : s.rss.wf
  relay : s.phase ≠ .idle → isRelayAddress s.cur.relay = true
  conn  : s.phase ≠ .idle → s.conn ≠ .closed

/-- The four operations the host may issue (R172, D32). -/
def isHostOperation : Instr → Bool
  | .execute _ _ _ | .connect _ | .disconnect | .currentState _ => true
  | .cmdOff _ | .cmdOn _ | .cmdOffAck _ | .cmdOnAck _ | .cmdToggle _ | .cmdQuery _ => false
  | .rspOff _ | .rspOn _ | .rspOffAck _ | .rspOnAck _ | .rspUnknown _ _ => false
  | .encSelect _ _ | .encFrame _ _ | .encAction _ _ _ | .decFrame _ | .decMap _ => false
  | .rssGet _ | .rssSet _ _ | .rssInvalidate _ => false
  | .tsOpen _ _ _ | .tsClose | .tsFlush | .tsWrite _ | .tsRead _ => false

/-- The transaction is one of the host's operations. -/
def isHostRequest (t : Transaction) : Bool :=
  match decode t with
  | .ok i => isHostOperation i
  | .error _ => false

/-- Only the host's operations wait at the port: the premise of a claim about the block (R124, R172; log 25). -/
abbrev HostOnly (s : State) : Prop := ∀ t ∈ s.inbox, isHostRequest t = true

/-- The frame is well-formed (R63), names a relay address (R69) and one of the six commands (R64). -/
def IsCommandFrame (f : Frame) : Prop :=
  f.header = 0xA0#8 ∧ f.csum = f.header + f.addr + f.op ∧ isRelayAddress f.addr = true ∧ f.op.toNat ≤ 5

/-- Every frame handed to the TS so far is a command frame (R42). -/
def CommandsOnly (s : State) : Prop := ∀ f, TsCall.write f ∈ s.calls → IsCommandFrame f

/-- Table `m'` is table `m` with entry `a` holding `v`, every other entry as it was. -/
def EntrySet (m m' : Memory) (a : Byte) (v : RelayState) : Prop :=
  m'.read a = v ∧ ∀ b, b ≠ a → m'.read b = m.read b

/-- Between `s` and `t` the table, the phase, the latches and the port are unchanged. -/
def KeepsSequencer (s t : State) : Prop :=
  t.rss = s.rss ∧ t.phase = s.phase ∧ t.cur = s.cur ∧ t.inbox = s.inbox

end Sys2Proof.Machine
end

