-- ==== Sys2Proof/Certificates/Slice0/Obligations.lean ====
section
/-! DEFINITION. The statements for the provers. Helper definitions come first: the opcode table of R64 and the listing of
R147, written out again from the rules and not from the machine's own definitions. -/

open Sys2Proof Sys2Proof.Machine

/-! ## The rules written out again, for the statements to compare with -/

/-- The opcode map of R64, as the table prints it. -/
def Sys2Proof.Listing.opcode : Action → Bool → Byte
  | .turnOff, false => 0x00#8 | .turnOff, true => 0x02#8
  | .turnOn, false => 0x01#8  | .turnOn, true => 0x03#8
  | .toggle, false => 0x04#8  | .toggle, true => 0x04#8
  | .queryStatus, false => 0x05#8 | .queryStatus, true => 0x05#8

/-- The status map of R66. -/
def Sys2Proof.Listing.state (code : Byte) : DecodedState :=
  if code.toNat = 0 then .off else if code.toNat = 1 then .on else if code.toNat = 2 then .off
  else if code.toNat = 3 then .on else .unknown code

/-- The table entry for a status code (R66, R125). -/
def Sys2Proof.Listing.entry (code : Byte) : RelayState :=
  if code.toNat = 0 then .off else if code.toNat = 1 then .on else if code.toNat = 2 then .off
  else if code.toNat = 3 then .on else .unknown

/-- A frame by R61 and R62. -/
def Sys2Proof.Listing.frame (relay op : Byte) : Frame := ⟨0xA0#8, relay, op, 0xA0#8 + relay + op⟩

/-- What one run of `EXECUTE` leaves and does: the table, the connection, the result, the TS calls. -/
structure Sys2Proof.Listing.Exchange where
  table  : Byte → RelayState
  conn   : ConnectionState
  result : Result
  calls  : List TsCall

/-- The table with one entry set. -/
def Sys2Proof.Listing.set (T : Byte → RelayState) (a : Byte) (v : RelayState) : Byte → RelayState :=
  fun b => if b = a then v else T b

/-- The end of the listing of R147, from the answer of `TS.READ` on. -/
def Sys2Proof.Listing.answer (T : Byte → RelayState) (conn : ConnectionState) (relay : Byte) (calls : List TsCall) :
    ReadAnswer → Sys2Proof.Listing.Exchange
  | .error => ⟨Listing.set T relay .unknown, .closed, .connectionLost, calls ++ [.close]⟩
  | .arrived bs =>
    match bs.take 4 with
    | [] => ⟨Listing.set T relay .unknown, conn, .timeout, calls⟩
    | [b0, b1, b2, b3] =>
      if b3 ≠ b0 + b1 + b2 then ⟨Listing.set T relay .unknown, conn, .checksumError, calls⟩
      else if b0 ≠ 0xA0#8 then ⟨Listing.set T relay .unknown, conn, .headerError, calls⟩
      else ⟨Listing.set T b1 (Listing.entry b2), conn, .statusReceived b1 (Listing.state b2) b2, calls⟩
    | _ => ⟨Listing.set T relay .unknown, conn, .lengthError, calls⟩

/-- The whole operation in one listing (R147), for the environment's answers `w` to the write and `r` to the read, with the
TS calls of R152. -/
def Sys2Proof.Listing.execute (T : Byte → RelayState) (conn : ConnectionState) (relay : Byte) (action : Action)
    (expect : Bool) (w : WriteAnswer) (r : ReadAnswer) : Sys2Proof.Listing.Exchange :=
  if relay.toNat < 1 ∨ relay.toNat > 254 then ⟨T, conn, .invalidAddress relay, []⟩
  else if conn = .closed then ⟨T, conn, .notConnected, []⟩
  else
    let f := Listing.frame relay (Listing.opcode action expect)
    match w with
    | .error _ => ⟨Listing.set T relay .unknown, .closed, .communicationError, [.flush, .write f, .close]⟩
    | .ok =>
      match expect, action with
      | false, .turnOn => ⟨Listing.set T relay .on, conn, .sent, [.flush, .write f]⟩
      | false, .turnOff => ⟨Listing.set T relay .off, conn, .sent, [.flush, .write f]⟩
      | false, .toggle => ⟨T, conn, .sent, [.flush, .write f]⟩
      | _, _ => Listing.answer T conn relay [.flush, .write f, .read Config.readTimeout] r

/-- Which answers of the environment a run of `EXECUTE` from `s` meets: the write answer listed; the read answer listed, with
the bytes that had come in between the flush and the read standing first (where listed, those of the third and fourth step).
Where none are listed the answers are free. -/
def Sys2Proof.Listing.Answers (s : State) (w : WriteAnswer) (r : ReadAnswer) : Prop :=
  (∀ w' ws, s.env.writes = w' :: ws → w = w') ∧
  (∀ rs, s.env.reads = .error :: rs → r = .error) ∧
  (∀ bs rs, s.env.reads = .arrived bs :: rs → ∃ early, r = .arrived (early ++ bs) ∧
    ∀ a0 a1 a2 a3 as, s.env.arrivals = a0 :: a1 :: a2 :: a3 :: as → early = a2 ++ a3)

/-! ## Reset and the step -/

/-- R32: after reset every entry is `Unknown`, the connection is closed and the phase is `IDLE`. (The values the spec
leaves unspecified are not mentioned.) The phase and the meaning of reset are the spec's own choice D21. -/
def Obligations.ResetHoldsTheStatedValues : Prop :=
  (∀ a : Byte, State.reset.rss.read a = .unknown) ∧ State.reset.conn = .closed ∧ State.reset.phase = .idle

/-- The model's invariant holds at reset: R33 items 3 and 4, and the canonical form of the table, which is the model's
own (log 20). -/
def Obligations.ResetMeetsTheInvariant : Prop := Inv State.reset

/-- Every step keeps the model's invariant: while busy a relay address (R33 item 3) and an open session (R33 item 4,
here in all busy phases); and the canonical form of the table, which is the model's own (log 20). -/
def Obligations.StepKeepsTheInvariant : Prop :=
  ∀ s t : State, Inv s → step s = .next t → Inv t

/-- R42, R63: while only host operations are issued, every frame ever handed to the TS is one of the six command
frames, with a relay address and a right checksum; and no step of the block puts another transaction at the port. The
premise is the spec's own choice D32 (log 25). -/
def Obligations.StepWritesCommandFramesOnly : Prop :=
  ∀ s t : State, Inv s → HostOnly s → CommandsOnly s → step s = .next t → CommandsOnly t ∧ HostOnly t

/-- In phase `IDLE` a step takes the next transaction from the port and runs the instruction it decodes to, on the
state the environment's move leaves; with nothing waiting the block holds its state. (The port and the place of the
move are the model's: log 1, log 24, log 29.) -/
def Obligations.StepRunsTheDecodedTransaction : Prop :=
  (∀ (s : State) (x : Transaction) (rest : List Transaction) (i : Instr), s.phase = .idle → s.inbox = x :: rest →
    decode x = .ok i → step s = exec i { s.envMove with inbox := rest }) ∧
  (∀ s : State, s.phase = .idle → s.inbox = [] → step s = .next s.envMove)

/-- What the environment's move before each step can change (R147, R183): nothing on a closed session; on an open one the
oldest buffered output leaves and received bytes join the unread ones, as many and whichever the environment says. (That the
move stands at the start of the step is the model's: log 11, log 29.) -/
def Obligations.BetweenStepsOnlyTheBuffersMove : Prop :=
  ∀ s : State, (s.conn = .closed → s.envMove = s) ∧
    (s.conn ≠ .closed → ∃ n bs env', s.envMove =
        { s with env := env', line := s.line ++ s.txBuf.take n, txBuf := s.txBuf.drop n, rxBuf := s.rxBuf ++ bs } ∧
      env'.opens = s.env.opens ∧ env'.writes = s.env.writes ∧ env'.reads = s.env.reads ∧
      (∀ n' ns, s.env.drains = n' :: ns → n = n') ∧ (∀ bs' bss, s.env.arrivals = bs' :: bss → bs = bs'))

/-- Bytes on the RX stream that are no well-formed frame are answered with the check that fails, in phase `IDLE` as in
DEC, and nothing else happens. Checksum before header is the spec's own choice D8 (log 21); that a frame can stand at
the port, and the environment's move before the step, are the model's (log 2, log 16, log 29). -/
def Obligations.MalformedResponseIsAnsweredByItsCheck : Prop :=
  ∀ (s : State) (bytes : ByteSeq) (rest : List Transaction),
    s.phase = .idle → s.inbox = .frame .toBlock bytes :: rest →
    (bytes.length ≠ 4 → step s = .next { s.envMove with inbox := rest, result := some .lengthError }) ∧
    ∀ b0 b1 b2 b3 : Byte, bytes = [b0, b1, b2, b3] →
      (b3 ≠ b0 + b1 + b2 → step s = .next { s.envMove with inbox := rest, result := some .checksumError }) ∧
      (b3 = b0 + b1 + b2 → b0 ≠ 0xA0#8 → step s = .next { s.envMove with inbox := rest, result := some .headerError })

/-- R74, R72, R69, R67: unassigned operation symbols, the reserved state code, and well-formed frames to the device
that are no command are refused by name. That a transaction can stand at the port, and the refusal, are the model's
(log 1, log 2, log 16). -/
def Obligations.UnassignedEncodingsAreRefusedByName : Prop :=
  ∀ (s : State) (x : Transaction) (rest : List Transaction), s.phase = .idle → s.inbox = x :: rest →
    (∀ n o, x = .operation n o → 0x11 ≤ n.toNat → step s = .refused (.undecodable (.unassignedOperation n))) ∧
    (∀ o, x = .operation 0x06#5 o → o.v = 0b01#2 → step s = .refused (.undecodable .reservedRelayState)) ∧
    (∀ a op, x = .frame .toDevice (Listing.frame a op).bytes → a.toNat = 0 ∨ a.toNat = 255 →
      step s = .refused (.undecodable (.commandAddress a))) ∧
    (∀ a op, x = .frame .toDevice (Listing.frame a op).bytes → 1 ≤ a.toNat → a.toNat ≤ 254 → 6 ≤ op.toNat →
      step s = .refused (.undecodable (.commandOpcode op)))

/-! ## Encoding -/

/-- Decode and encode agree: a well-formed instruction is what its transaction decodes to, and bytes on a stream that
decode are the one encoding of a well-formed instruction. The transaction format is the model's (log 2). -/
def Obligations.DecodeInvertsEncode : Prop :=
  (∀ i : Instr, i.wellFormed = true → decode (encode i) = .ok i) ∧
  (∀ (dir : Direction) (bytes : ByteSeq) (i : Instr), decode (.frame dir bytes) = .ok i →
    i.wellFormed = true ∧ encode i = .frame dir bytes)

/-- Words of the opcode table, read by the decoder (R61, R64, R66, R74). Which stream a frame word is on is the
model's choice (log 3). -/
def Obligations.TableWordsDecodeToTheirRows : Prop :=
  decodeTableWord 32 0xA00501A6 = some (.cmdOn 0x05#8) ∧
  decodeTableWord 32 0xA0FE05A3 = some (.cmdQuery 0xFE#8) ∧
  decodeTableWord 32 0xA00001A1 = some (.rspOn 0x00#8) ∧
  decodeTableWord 32 0xA005FFA4 = some (.rspUnknown 0x05#8 0xFF#8) ∧
  decodeTableWord 32 0xA00501A7 = none ∧
  decodeTableWord 8 0x0B = some .disconnect ∧
  decodeTableWord 8 0x10 = some (.tsRead 0) ∧
  decodeTableWord 8 0x11 = none

/-! ## ENC -/

/-- R80, R64: the opcode of each action, on all eight inputs; no state is written. -/
def Obligations.SelectGivesTheOpcodeTable : Prop :=
  ∀ s : State,
    exec (.encSelect .turnOff false) s = .next { s with result := some (.opcode 0x00#8) } ∧
    exec (.encSelect .turnOn false) s = .next { s with result := some (.opcode 0x01#8) } ∧
    exec (.encSelect .turnOff true) s = .next { s with result := some (.opcode 0x02#8) } ∧
    exec (.encSelect .turnOn true) s = .next { s with result := some (.opcode 0x03#8) } ∧
    ∀ e : Bool,
      exec (.encSelect .toggle e) s = .next { s with result := some (.opcode 0x04#8) } ∧
      exec (.encSelect .queryStatus e) s = .next { s with result := some (.opcode 0x05#8) }

/-- R65: with the action codes of R71 the opcode is the given bit function of action and expect. The action codes are
the spec's own choice D5. -/
def Obligations.SelectedOpcodeIsTheBitFunction : Prop :=
  ∀ (s : State) (action : Action) (expect : Bool), ∃ op : Byte,
    exec (.encSelect action expect) s = .next { s with result := some (.opcode op) } ∧
    op.extractLsb' 3 5 = 0b00000#5 ∧
    op.getLsbD 2 = action.toCode.getLsbD 1 ∧
    op.getLsbD 1 = (!action.toCode.getLsbD 1 && expect) ∧
    op.getLsbD 0 = action.toCode.getLsbD 0

/-- R87, R88: the frame of an address in 1 to 254 and any opcode byte, its checksum the sum modulo 256; 0 and 255 are
refused with `InvalidAddress`. No state is written. The refusal is the spec's own choice D4. -/
def Obligations.EncFrameAssemblesTheFrame : Prop :=
  ∀ (s : State) (relay op : Byte),
    (1 ≤ relay.toNat → relay.toNat ≤ 254 → ∃ c : Byte,
      exec (.encFrame relay op) s = .next { s with result := some (.frame ⟨0xA0#8, relay, op, c⟩) } ∧
      c.toNat = (160 + relay.toNat + op.toNat) % 256) ∧
    (relay.toNat = 0 ∨ relay.toNat = 255 →
      exec (.encFrame relay op) s = .next { s with result := some (.invalidAddress relay) })

/-- R89: `ENC.ACTION` is the frame of the selected opcode, with the same refusal. The refusal is the spec's own choice
D4. -/
def Obligations.EncActionFramesTheSelectedOpcode : Prop :=
  ∀ (s : State) (relay : Byte) (action : Action) (expect : Bool),
    (1 ≤ relay.toNat → relay.toNat ≤ 254 →
      exec (.encAction relay action expect) s =
        .next { s with result := some (.frame (Listing.frame relay (Listing.opcode action expect))) }) ∧
    (relay.toNat = 0 ∨ relay.toNat = 255 →
      exec (.encAction relay action expect) s = .next { s with result := some (.invalidAddress relay) })

/-- R81 to R86, ENC's part: the six command frames, and their refusal of the addresses 0 and 255. The refusal is the
spec's own choice D4. -/
def Obligations.CommandFramesAreTheSixPatterns : Prop :=
  ∀ (s : State) (relay : Byte),
    (1 ≤ relay.toNat → relay.toNat ≤ 254 →
      exec (.cmdOff relay) s = .next { s with result := some (.frame ⟨0xA0#8, relay, 0x00#8, 0xA0#8 + relay⟩) } ∧
      exec (.cmdOn relay) s = .next { s with result := some (.frame ⟨0xA0#8, relay, 0x01#8, 0xA1#8 + relay⟩) } ∧
      exec (.cmdOffAck relay) s = .next { s with result := some (.frame ⟨0xA0#8, relay, 0x02#8, 0xA2#8 + relay⟩) } ∧
      exec (.cmdOnAck relay) s = .next { s with result := some (.frame ⟨0xA0#8, relay, 0x03#8, 0xA3#8 + relay⟩) } ∧
      exec (.cmdToggle relay) s = .next { s with result := some (.frame ⟨0xA0#8, relay, 0x04#8, 0xA4#8 + relay⟩) } ∧
      exec (.cmdQuery relay) s = .next { s with result := some (.frame ⟨0xA0#8, relay, 0x05#8, 0xA5#8 + relay⟩) }) ∧
    (relay.toNat = 0 ∨ relay.toNat = 255 →
      ∀ i ∈ [Instr.cmdOff relay, .cmdOn relay, .cmdOffAck relay, .cmdOnAck relay, .cmdToggle relay, .cmdQuery relay],
        exec i s = .next { s with result := some (.invalidAddress relay) })

/-- R76: each pseudo-operation equals its expansion (`CURRENTSTATE` where the host may issue it). -/
def Obligations.PseudoOperationsEqualTheirExpansions : Prop :=
  ∀ (s : State) (a : Byte) (e : Bool),
    (s.phase = .idle → exec (.currentState a) s = exec (.rssGet a) s) ∧
    exec (.rssInvalidate a) s = exec (.rssSet a .unknown) s ∧
    (∀ (action : Action) (op : Byte), (∃ t, exec (.encSelect action e) s = .next t ∧ t.result = some (.opcode op)) →
      exec (.encAction a action e) s = exec (.encFrame a op) s) ∧
    exec (.cmdOff a) s = exec (.encAction a .turnOff false) s ∧
    exec (.cmdOn a) s = exec (.encAction a .turnOn false) s ∧
    exec (.cmdOffAck a) s = exec (.encAction a .turnOff true) s ∧
    exec (.cmdOnAck a) s = exec (.encAction a .turnOn true) s ∧
    exec (.cmdToggle a) s = exec (.encAction a .toggle e) s ∧
    exec (.cmdQuery a) s = exec (.encAction a .queryStatus e) s

/-- R91: every frame ENC returns is accepted by DEC, and gives back its address and the state of its opcode byte. -/
def Obligations.EveryEncodedFrameIsAccepted : Prop :=
  ∀ (s : State) (relay op : Byte), 1 ≤ relay.toNat → relay.toNat ≤ 254 →
    ∃ (f : Frame) (t : State), exec (.encFrame relay op) s = .next t ∧ t.result = some (.frame f) ∧
      ∀ u : State, exec (.decFrame f.bytes) u =
        .next { u with result := some (.decoded relay (Listing.state op) op) }

/-! ## DEC -/

/-- R100 to R105: length, then checksum over the bytes present, then header; else success with address, state and raw
code. No state is written, in any phase. The order of the last two checks is the spec's own choice D8, the raw code in
every success D25. -/
def Obligations.DecFrameChecksInOrder : Prop :=
  ∀ (s : State) (bytes : ByteSeq),
    (bytes.length ≠ 4 → exec (.decFrame bytes) s = .next { s with result := some .lengthError }) ∧
    ∀ b0 b1 b2 b3 : Byte, bytes = [b0, b1, b2, b3] →
      (b3.toNat ≠ (b0.toNat + b1.toNat + b2.toNat) % 256 →
        exec (.decFrame bytes) s = .next { s with result := some .checksumError }) ∧
      (b3.toNat = (b0.toNat + b1.toNat + b2.toNat) % 256 →
        (b0 ≠ 0xA0#8 → exec (.decFrame bytes) s = .next { s with result := some .headerError }) ∧
        (b0 = 0xA0#8 →
          exec (.decFrame bytes) s = .next { s with result := some (.decoded b1 (Listing.state b2) b2) }))

/-- R63, R68, R105: DEC succeeds on exactly the well-formed frames, one for each pair of address and status byte. -/
def Obligations.DecFrameAcceptsExactlyTheWellFormed : Prop :=
  ∀ (s : State) (bytes : ByteSeq),
    (∃ t addr state code, exec (.decFrame bytes) s = .next t ∧ t.result = some (.decoded addr state code)) ↔
      ∃ addr code : Byte, bytes = [0xA0#8, addr, code, 0xA0#8 + addr + code]

/-- R90 item 5, R213, R102: a well-formed frame with exactly one byte changed is never accepted. The answer is
`ChecksumError`, also where the header is the byte changed and both checks fail (R104, the spec's own choice D8, log
21). -/
def Obligations.SingleByteErrorsAreCaught : Prop :=
  ∀ (s : State) (addr code b : Byte) (k : Nat),
    k < 4 → (Listing.frame addr code).bytes[k]? ≠ some b →
    ∃ t, exec (.decFrame ((Listing.frame addr code).bytes.set k b)) s = .next t ∧
      t = { s with result := some .checksumError }

/-- R106, R66: the status map on all 256 codes. -/
def Obligations.DecMapIsTheStatusMap : Prop :=
  ∀ (s : State) (code : Byte),
    (code.toNat = 0 ∨ code.toNat = 2 → exec (.decMap code) s = .next { s with result := some (.mapped .off) }) ∧
    (code.toNat = 1 ∨ code.toNat = 3 → exec (.decMap code) s = .next { s with result := some (.mapped .on) }) ∧
    (4 ≤ code.toNat → exec (.decMap code) s = .next { s with result := some (.mapped (.unknown code)) })

/-- R107 to R111, DEC's part: a response frame that reaches DEC while SEQ awaits none gives its state and code, and no state
is written. (That phase `READ` is the case apart is the model's reading: log 15.) -/
def Obligations.ResponseClassesDecodeToTheirStates : Prop :=
  ∀ (s : State) (addr : Byte), s.phase ≠ .read →
    exec (.rspOff addr) s = .next { s with result := some (.decoded addr .off 0x00#8) } ∧
    exec (.rspOn addr) s = .next { s with result := some (.decoded addr .on 0x01#8) } ∧
    exec (.rspOffAck addr) s = .next { s with result := some (.decoded addr .off 0x02#8) } ∧
    exec (.rspOnAck addr) s = .next { s with result := some (.decoded addr .on 0x03#8) } ∧
    ∀ status : Byte, 4 ≤ status.toNat →
      exec (.rspUnknown addr status) s = .next { s with result := some (.decoded addr (.unknown status) status) }

/-- R107 to R111, SEQ's part, with R145: in phase `READ` a response frame writes the entry of its own address, ends
the exchange and is reported; the latches are unspecified afterwards (R26), everything else is unchanged. (log 15.)
Taking the frame as the answer awaited is the model's reading (log 15). The raw code carried by the result is the
spec's own choice D25. -/
def Obligations.ResponseClassesUpdateTheTableInRead : Prop :=
  ∀ (s : State) (addr code : Byte) (i : Instr), s.phase = .read →
    (i = .rspOff addr ∧ code = 0x00#8 ∨ i = .rspOn addr ∧ code = 0x01#8 ∨ i = .rspOffAck addr ∧ code = 0x02#8 ∨
      i = .rspOnAck addr ∧ code = 0x03#8 ∨ i = .rspUnknown addr code ∧ 4 ≤ code.toNat) →
    ∃ t, exec i s = .next t ∧ EntrySet s.rss t.rss addr (Listing.entry code) ∧ t.phase = .idle ∧
      t.result = some (.statusReceived addr (Listing.state code) code) ∧
      t.conn = s.conn ∧ t.rxBuf = s.rxBuf ∧ t.txBuf = s.txBuf ∧ t.line = s.line ∧ t.calls = s.calls ∧ t.inbox = s.inbox

/-- The step of phase `READ` runs the response instruction its bytes decode to, on the state the read left, after the
environment's move (log 29). That the response is an instruction is the model's reading (log 15). -/
def Obligations.ReadPhaseRunsTheReceivedResponse : Prop :=
  ∀ (s s1 : State) (bytes : ByteSeq) (i : Instr), s.phase = .read → s.conn ≠ .closed →
    s.envMove.tsRead Config.readTimeout = (some bytes, s1) → decode (.frame .toBlock bytes) = .ok i → step s = exec i s1

/-- R4: the results of ENC and DEC depend on their operands only, and they write nothing. -/
def Obligations.PureUnitsNeitherReadNorWriteState : Prop :=
  ∀ (i : Instr),
    ((∃ a e, i = .encSelect a e) ∨ (∃ r o, i = .encFrame r o) ∨ (∃ r a e, i = .encAction r a e) ∨
      (∃ b, i = .decFrame b) ∨ (∃ c, i = .decMap c) ∨
      ∃ r, i ∈ [Instr.cmdOff r, .cmdOn r, .cmdOffAck r, .cmdOnAck r, .cmdToggle r, .cmdQuery r]) →
    ∃ v : Result, ∀ s : State, exec i s = .next { s with result := some v }

/-! ## RSS -/

/-- R120, R127: `RSS.GET` returns the entry, at every index, and changes nothing; in the reset state that is
`Unknown`. -/
def Obligations.RssGetReturnsTheEntry : Prop :=
  (∀ (s : State) (a : Byte), exec (.rssGet a) s = .next { s with result := some (.entry (s.rss.read a)) }) ∧
  ∀ a : Byte, exec (.rssGet a) State.reset = .next { State.reset with result := some (.entry .unknown) }

/-- R121, R127: `RSS.SET` writes its own entry, at every index, and nothing else. -/
def Obligations.RssSetWritesOneEntry : Prop :=
  ∀ (s : State) (a : Byte) (v : RelayState), ∃ m : Memory,
    exec (.rssSet a v) s = .next { s with rss := m, result := some .nothing } ∧ EntrySet s.rss m a v

/-- R122, R127: `RSS.INVALIDATE` sets its own entry to `Unknown`, at every index, and nothing else. -/
def Obligations.RssInvalidateClearsOneEntry : Prop :=
  ∀ (s : State) (a : Byte), ∃ m : Memory,
    exec (.rssInvalidate a) s = .next { s with rss := m, result := some .nothing } ∧ EntrySet s.rss m a .unknown

/-- R56: last write wins and insertion order is irrelevant: a second write to an entry leaves the state the second alone
leaves, and writes to two entries leave the same state in either order. -/
def Obligations.LastWriteWinsInAnyOrder : Prop :=
  ∀ (s : State) (a b : Byte) (v w : RelayState), s.rss.wf →
    ∃ t u, exec (.rssSet a v) s = .next t ∧ exec (.rssSet b w) s = .next u ∧
      (a = b → exec (.rssSet b w) t = .next u) ∧
      (a ≠ b → exec (.rssSet b w) t = exec (.rssSet a v) u)

/-- R123: in phase `IDLE` the host reads the entry, at every index, and nothing changes. -/
def Obligations.CurrentStateReadsInIdle : Prop :=
  ∀ (s : State) (a : Byte), s.phase = .idle →
    exec (.currentState a) s = .next { s with result := some (.entry (s.rss.read a)) }

/-! ## SEQ: acceptance -/

/-- R52, R131: while an exchange is in progress no step takes anything from the port; a host operation given to the
block then has no effect and goes on waiting (how it waits is the model's: log 14). Waiting is the spec's own choice
D17. -/
def Obligations.HostOperationsWaitWhileBusy : Prop :=
  ∀ s : State, s.phase ≠ .idle →
    (∀ i, isHostOperation i = true → exec i s = .next { s with inbox := encode i :: s.inbox, result := none }) ∧
    (∀ t, step s = .next t → t.inbox = s.inbox)

/-- R132: an address outside 1 to 254 is refused first, open or closed, with no effect at all. -/
def Obligations.ExecuteRefusesABadAddress : Prop :=
  ∀ (s : State) (relay : Byte) (action : Action) (expect : Bool), s.phase = .idle → relay.toNat = 0 ∨ relay.toNat = 255 →
    exec (.execute relay action expect) s = .next { s with result := some (.invalidAddress relay) }

/-- R133: a closed transport gives `NotConnected`, with no effect at all. That it never reconnects is the spec's own
choice D13. -/
def Obligations.ExecuteNeedsAConnection : Prop :=
  ∀ (s : State) (relay : Byte) (action : Action) (expect : Bool),
    s.phase = .idle → 1 ≤ relay.toNat → relay.toNat ≤ 254 → s.conn = .closed →
    exec (.execute relay action expect) s = .next { s with result := some .notConnected }

/-- R134: when both checks pass the operands are latched and the phase is `FLUSH`; nothing else changes and nothing is
returned yet. Phases and latches are the spec's own choice D16. -/
def Obligations.ExecuteLatchesItsOperands : Prop :=
  ∀ (s : State) (relay : Byte) (action : Action) (expect : Bool),
    s.phase = .idle → 1 ≤ relay.toNat → relay.toNat ≤ 254 → s.conn ≠ .closed →
    exec (.execute relay action expect) s =
      .next { s with cur := ⟨relay, action, expect⟩, phase := .flush, result := none }

/-! ## SEQ: the phases -/

/-- R135, R53: phase `FLUSH` makes one `TS.FLUSH`: both buffers are emptied, what had not left is never sent, and the
phase is `WRITE`. Phases and a flush that cannot fail are the spec's own choices D16 and D18; the environment's move
before the step is the model's (log 11, log 29). -/
def Obligations.FlushPhaseEmptiesBothBuffers : Prop :=
  ∀ s : State, s.phase = .flush → s.conn ≠ .closed → ∃ t, step s = .next t ∧
    t.phase = .write ∧ t.rxBuf = [] ∧ t.txBuf = [] ∧ t.calls = s.calls ++ [.flush] ∧ t.result = none ∧
    t.rss = s.rss ∧ t.conn = s.conn ∧ t.cur = s.cur ∧ t.inbox = s.inbox ∧ t.line = s.envMove.line

/-- R53, R206: bytes received before the flush cannot influence anything after it. -/
def Obligations.StaleInputIsNeverSeenAgain : Prop :=
  ∀ (s : State) (stale stale' : ByteSeq) (k : Nat), s.phase = .flush →
    Host.Core.run core (k + 1) { s with rxBuf := stale } = Host.Core.run core (k + 1) { s with rxBuf := stale' }

/-- R211, R30, R183: bytes that come in while no exchange is in progress stay unread in the input buffer and change nothing
else the block holds; the next exchange, whichever relay it addresses, throws them away before its write, and the table is
untouched by them. (That bytes come in at the start of a step is the model's: log 29.) -/
def Obligations.LateBytesWaitAndAreThrownAway : Prop :=
  (∀ (s : State) (late : ByteSeq) (more : List ByteSeq), s.phase = .idle → s.inbox = [] → s.conn ≠ .closed →
    s.env.arrivals = late :: more →
    ∃ t, step s = .next t ∧ t.rxBuf = s.rxBuf ++ late ∧ t.rss = s.rss ∧ t.conn = s.conn ∧ t.phase = .idle ∧
      t.cur = s.cur ∧ t.calls = s.calls ∧ t.inbox = [] ∧ t.result = s.result) ∧
  ∀ (s : State) (relay : Byte) (action : Action) (expect : Bool) (rest : List Transaction), s.phase = .idle →
    s.inbox = encode (.execute relay action expect) :: rest → s.conn ≠ .closed → 1 ≤ relay.toNat → relay.toNat ≤ 254 →
    ∃ t, Host.Core.run core 2 s = .next t ∧ t.rxBuf = [] ∧ t.txBuf = [] ∧ t.rss = s.rss ∧ t.phase = .write ∧
      t.calls = s.calls ++ [.flush]

/-- R136, R137: phase `WRITE` hands the frame of the latched operands to the TS; on `WriteError` the transport is
closed, the commanded entry is `Unknown`, and the exchange ends with `CommunicationError`. The invalidation and the
result's name are the spec's own choices D12 and D14; the emptied buffers and the environment's move before the step
are the model's (log 10, log 11, log 29). -/
def Obligations.FailedWriteLosesTheConnection : Prop :=
  ∀ (s : State) (n : Nat), s.phase = .write → s.conn ≠ .closed → isRelayAddress s.cur.relay = true →
    s.envMove.env.takeWrite.1 = .error n →
    ∃ t f, f = Listing.frame s.cur.relay (Listing.opcode s.cur.action s.cur.expect) ∧ step s = .next t ∧
      t.conn = .closed ∧ EntrySet s.rss t.rss s.cur.relay .unknown ∧ t.phase = .idle ∧
      t.result = some .communicationError ∧ t.calls = s.calls ++ [.write f, .close] ∧
      t.rxBuf = [] ∧ t.txBuf = [] ∧ t.inbox = s.inbox ∧
      t.line = s.envMove.line ++ (s.envMove.txBuf ++ f.bytes).take n

/-- R138: with no response expected, a sent on or off command sets the commanded entry to what was asked for; `Sent`.
The environment's move before the step is the model's (log 11, log 29). -/
def Obligations.SentCommandSetsTheOptimisticEntry : Prop :=
  ∀ (s : State), s.phase = .write → s.conn ≠ .closed → isRelayAddress s.cur.relay = true →
    s.envMove.env.takeWrite.1 = .ok → s.cur.expect = false → s.cur.action = .turnOn ∨ s.cur.action = .turnOff →
    ∃ t f, f = Listing.frame s.cur.relay (Listing.opcode s.cur.action false) ∧ step s = .next t ∧
      (s.cur.action = .turnOn → EntrySet s.rss t.rss s.cur.relay .on) ∧
      (s.cur.action = .turnOff → EntrySet s.rss t.rss s.cur.relay .off) ∧
      t.phase = .idle ∧ t.result = some .sent ∧ t.calls = s.calls ++ [.write f] ∧ t.conn = s.conn ∧
      t.rxBuf = s.envMove.rxBuf ∧ t.inbox = s.inbox ∧ t.line = s.envMove.line ∧ t.txBuf = s.envMove.txBuf ++ f.bytes

/-- R139: a fire-and-forget toggle is `Sent` and leaves the table alone. The whole case is the spec's own choice D15;
the environment's move before the step is the model's (log 11, log 29). -/
def Obligations.SentToggleLeavesTheTable : Prop :=
  ∀ (s : State), s.phase = .write → s.conn ≠ .closed → isRelayAddress s.cur.relay = true →
    s.envMove.env.takeWrite.1 = .ok → s.cur.expect = false → s.cur.action = .toggle →
    ∃ t, step s = .next t ∧ t.rss = s.rss ∧ t.phase = .idle ∧ t.result = some .sent ∧
      t.calls = s.calls ++ [.write (Listing.frame s.cur.relay 0x04#8)] ∧ t.conn = s.conn ∧
      t.rxBuf = s.envMove.rxBuf ∧ t.inbox = s.inbox ∧ t.line = s.envMove.line ∧
      t.txBuf = s.envMove.txBuf ++ (Listing.frame s.cur.relay 0x04#8).bytes

/-- R140, R92: when a response is awaited the phase is `READ`, there is no result yet and the table is untouched. The
environment's move before the step is the model's (log 11, log 29). -/
def Obligations.AwaitedCommandGoesOnToRead : Prop :=
  ∀ (s : State), s.phase = .write → s.conn ≠ .closed → isRelayAddress s.cur.relay = true →
    s.envMove.env.takeWrite.1 = .ok → s.cur.expect = true ∨ s.cur.action = .queryStatus →
    ∃ t f, f = Listing.frame s.cur.relay (Listing.opcode s.cur.action s.cur.expect) ∧ step s = .next t ∧
      t.phase = .read ∧ t.result = none ∧ t.rss = s.rss ∧ t.cur = s.cur ∧ t.conn = s.conn ∧
      t.calls = s.calls ++ [.write f] ∧ t.rxBuf = s.envMove.rxBuf ∧ t.inbox = s.inbox ∧
      t.line = s.envMove.line ∧ t.txBuf = s.envMove.txBuf ++ f.bytes

/-- R142: a read error closes the transport, sets the commanded entry to `Unknown` and ends with `ConnectionLost`. The
invalidation is the spec's own choice D12; the emptied buffers and the environment's move before the step are the
model's (log 10, log 11, log 29). -/
def Obligations.ReadErrorLosesTheConnection : Prop :=
  ∀ (s : State), s.phase = .read → s.conn ≠ .closed → s.envMove.env.takeRead.1 = .error →
    ∃ t, step s = .next t ∧ t.conn = .closed ∧ EntrySet s.rss t.rss s.cur.relay .unknown ∧ t.phase = .idle ∧
      t.result = some .connectionLost ∧ t.calls = s.calls ++ [.read Config.readTimeout, .close] ∧
      t.rxBuf = [] ∧ t.txBuf = [] ∧ t.inbox = s.inbox ∧ t.line = s.envMove.line

/-- R143, R144, R145, R146, R166 to R169: what a read that returns bytes does. The bytes are the first four of what is
unread and arrives. None: `Timeout`. Rejected: the failing check, and the commanded entry is `Unknown`. Accepted: the
entry of the address found in the response is written and no other, whatever was commanded. The connection stays as it
is. The invalidation, the carried code and the address rule are the spec's own choices D11, D25, D28 and D29; which
bytes a read takes and the environment's move before the step are the model's (log 11, log 28, log 29). -/
def Obligations.ReadBytesAreClassified : Prop :=
  ∀ (s : State) (arrived : ByteSeq), s.phase = .read → s.conn ≠ .closed → s.envMove.env.takeRead.1 = .arrived arrived →
    ∃ t, step s = .next t ∧ t.phase = .idle ∧ t.conn = s.conn ∧ t.inbox = s.inbox ∧
      t.calls = s.calls ++ [.read Config.readTimeout] ∧ t.rxBuf = (s.envMove.rxBuf ++ arrived).drop 4 ∧
      t.line = s.envMove.line ∧ t.txBuf = s.envMove.txBuf ∧
      ((s.envMove.rxBuf ++ arrived).take 4 = [] → t.result = some .timeout ∧ EntrySet s.rss t.rss s.cur.relay .unknown) ∧
      (1 ≤ (s.envMove.rxBuf ++ arrived).length → (s.envMove.rxBuf ++ arrived).length ≤ 3 →
        t.result = some .lengthError ∧ EntrySet s.rss t.rss s.cur.relay .unknown) ∧
      ∀ b0 b1 b2 b3 : Byte, (s.envMove.rxBuf ++ arrived).take 4 = [b0, b1, b2, b3] →
        (b3 ≠ b0 + b1 + b2 → t.result = some .checksumError ∧ EntrySet s.rss t.rss s.cur.relay .unknown) ∧
        (b3 = b0 + b1 + b2 → b0 ≠ 0xA0#8 →
          t.result = some .headerError ∧ EntrySet s.rss t.rss s.cur.relay .unknown) ∧
        (b3 = b0 + b1 + b2 → b0 = 0xA0#8 →
          t.result = some (.statusReceived b1 (Listing.state b2) b2) ∧ EntrySet s.rss t.rss b1 (Listing.entry b2))

/-! ## SEQ: the whole exchange -/

/-- R33 item 4, R182: in a state that meets the invariant, a phase of an exchange always has its step: no `TS.FLUSH`,
`TS.WRITE` or `TS.READ` is refused in a busy phase. That TS calls return is the spec's own assumption D22 (log 22). -/
def Obligations.BusyPhasesAlwaysStep : Prop :=
  ∀ s : State, Inv s → s.phase ≠ .idle → ∃ t, step s = .next t

/-- R151: every accepted exchange returns, within three steps, in phase `IDLE`, with a result of R130. That TS calls
return is the spec's own assumption D22 (log 22). -/
def Obligations.EveryAcceptedExchangeReturns : Prop :=
  ∀ s : State, Inv s → s.phase ≠ .idle →
    ∃ (k : Nat) (t : State), k ≤ 3 ∧ Host.Core.run core k s = .next t ∧ t.phase = .idle ∧
      (t.result = some .communicationError ∨ t.result = some .sent ∨ t.result = some .timeout ∨
        t.result = some .connectionLost ∨ t.result = some .lengthError ∨ t.result = some .checksumError ∨
        t.result = some .headerError ∨ ∃ a st c, t.result = some (.statusReceived a st c))

/-- R147: from a request at the port to its result, an `EXECUTE` leaves the table, the connection and the result of
the listing, for the answers the environment gives; the rest of the port is untouched and the phase is `IDLE` again.
The listing contains the spec's own choices D8, D11, D12, D13, D14, D15, D16 and D25; the port, the answers, the
recording stub, which bytes a read takes and when bytes come in are the model's (log 1, log 5, log 6, log 28, log 29). -/
def Obligations.ExecuteFollowsItsListing : Prop :=
  ∀ (s : State) (relay : Byte) (action : Action) (expect : Bool) (rest : List Transaction),
    s.phase = .idle → s.inbox = encode (.execute relay action expect) :: rest →
    ∃ (w : WriteAnswer) (r : ReadAnswer) (k : Nat) (t : State), Listing.Answers s w r ∧
      k ≤ 4 ∧ Host.Core.run core k s = .next t ∧ t.phase = .idle ∧ t.inbox = rest ∧
      (∀ a, t.rss.read a = (Listing.execute s.rss.read s.conn relay action expect w r).table a) ∧
      t.conn = (Listing.execute s.rss.read s.conn relay action expect w r).conn ∧
      t.result = some (Listing.execute s.rss.read s.conn relay action expect w r).result

/-- R152: the TS calls a recording stub sees on each path of an `EXECUTE`, and the entries written on it, whatever the
environment answers, listed or free. The listing contains the spec's own choices D8, D11, D12, D13, D14, D15, D16 and
D25; the port, the answers, the recording stub, which bytes a read takes and when bytes come in are the model's (log
1, log 5, log 6, log 28, log 29). -/
def Obligations.ExecuteMakesTheCallsOfItsPath : Prop :=
  ∀ (s : State) (relay : Byte) (action : Action) (expect : Bool) (rest : List Transaction),
    s.phase = .idle → s.inbox = encode (.execute relay action expect) :: rest →
    ∃ (w : WriteAnswer) (r : ReadAnswer) (k : Nat) (t : State), Listing.Answers s w r ∧
      k ≤ 4 ∧ Host.Core.run core k s = .next t ∧ t.phase = .idle ∧ t.inbox = rest ∧
      t.result = some (Listing.execute s.rss.read s.conn relay action expect w r).result ∧
      (∀ a, t.rss.read a = (Listing.execute s.rss.read s.conn relay action expect w r).table a) ∧
      t.calls = s.calls ++ (Listing.execute s.rss.read s.conn relay action expect w r).calls

/-! ## CONNECT and DISCONNECT -/

/-- R148: `CONNECT` closes an open session first, then opens the port with `BAUD` and `READ_TIMEOUT`; on `OpenError`
the connection is `Closed` and the message is passed on. Table, phase and latches are unchanged. Closing first and the
untouched table are the spec's own choices D26 and D20; what the buffers hold after an open is the model's (log 9, log
10). -/
def Obligations.ConnectClosesThenOpens : Prop :=
  ∀ (s : State) (port : PortId), s.phase = .idle → ∃ t, exec (.connect port) s = .next t ∧
    KeepsSequencer s t ∧ t.line = s.line ∧
    t.calls = s.calls ++ (if s.conn = .closed then [] else [.close]) ++
      [.openPort port 9600 Config.readTimeout] ∧
    ((t.conn = .openOn port ∧ t.result = some .ok) ∨ (t.conn = .closed ∧ ∃ msg, t.result = some (.openError msg))) ∧
    (∀ u v os, s.env.opens = .ok u v :: os → t.conn = .openOn port ∧ t.rxBuf = u ∧ t.txBuf = v) ∧
    (∀ msg os, s.env.opens = .error msg :: os → t.result = some (.openError msg))

/-- R149, R177: `DISCONNECT` closes and reports nothing; what is in the buffers is lost, and the table, the phase, the
latches and everything else are unchanged, also on a closed transport. The untouched table is the spec's own choice
D20. -/
def Obligations.DisconnectCloses : Prop :=
  ∀ s : State, s.phase = .idle → exec .disconnect s =
    .next { s with conn := .closed, rxBuf := [], txBuf := [], calls := s.calls ++ [.close], result := some .nothing }

/-! ## TS -/

/-- R176: `TS.OPEN` on a closed session opens it on `Ok` and leaves it closed on `OpenError`, which carries the
message; on an open session the model refuses it (log 13). The buffers are the model's (log 9, log 10). -/
def Obligations.TsOpenOpensOrStaysClosed : Prop :=
  ∀ (s : State) (port : PortId) (baud readTimeout : Nat),
    (s.conn = .closed → ∃ t, exec (.tsOpen port baud readTimeout) s = .next t ∧
      KeepsSequencer s t ∧ t.line = s.line ∧ t.calls = s.calls ++ [.openPort port baud readTimeout] ∧
      ((∃ u v, s.env.takeOpen.1 = .ok u v ∧ t.conn = .openOn port ∧ t.result = some .ok ∧ t.rxBuf = u ∧ t.txBuf = v) ∨
       (∃ msg, s.env.takeOpen.1 = .error msg ∧ t.conn = .closed ∧ t.result = some (.openError msg) ∧
        t.rxBuf = s.rxBuf ∧ t.txBuf = s.txBuf))) ∧
    (s.conn ≠ .closed → exec (.tsOpen port baud readTimeout) s = .refused .openSession)

/-- R177: `TS.CLOSE` always returns to `Closed`, loses what is in the buffers, changes nothing else, and is
idempotent. -/
def Obligations.TsCloseIsTotalAndIdempotent : Prop :=
  ∀ s : State, ∃ t, exec .tsClose s = .next t ∧
    t = { s with conn := .closed, rxBuf := [], txBuf := [], calls := s.calls ++ [.close], result := some .nothing } ∧
    exec .tsClose t = .next { t with calls := t.calls ++ [.close] }

/-- R178, R53: `TS.FLUSH` on an open session empties both buffers and changes nothing else; on a closed one the model
refuses it. That it cannot fail is the spec's own choice D18; the refusal is the model's (log 12). -/
def Obligations.TsFlushEmptiesBothBuffers : Prop :=
  ∀ s : State,
    (s.conn ≠ .closed → exec .tsFlush s =
      .next { s with rxBuf := [], txBuf := [], calls := s.calls ++ [.flush], result := some .nothing }) ∧
    (s.conn = .closed → exec .tsFlush s = .refused .closedSession)

/-- R179, R181: on `Ok` the four bytes of the frame stand last in the output buffer, in wire order; on `WriteError`
the TS has closed itself and a prefix of what was waiting may have left. Closed: refused. The open prefix is the
spec's own choice D31; the refusal and the lost buffers are the model's (log 10, log 12). -/
def Obligations.TsWriteAcceptsOrCloses : Prop :=
  ∀ (s : State) (f : Frame),
    (s.conn ≠ .closed → ∃ t, exec (.tsWrite f) s = .next t ∧ KeepsSequencer s t ∧ t.calls = s.calls ++ [.write f] ∧
      ((s.env.takeWrite.1 = .ok ∧ t.result = some .ok ∧ t.conn = s.conn ∧ t.rxBuf = s.rxBuf ∧ t.line = s.line ∧
        t.txBuf = s.txBuf ++ [f.header, f.addr, f.op, f.csum]) ∨
       (∃ n, s.env.takeWrite.1 = .error n ∧ t.result = some .writeError ∧ t.conn = .closed ∧
        t.rxBuf = [] ∧ t.txBuf = [] ∧ t.line = s.line ++ (s.txBuf ++ [f.header, f.addr, f.op, f.csum]).take n))) ∧
    (s.conn = .closed → exec (.tsWrite f) s = .refused .closedSession)

/-- R180, R181: a read returns at most four bytes, the oldest of what is unread and arrives, and consumes them; on
`ReadError` the TS has closed itself. Closed: refused. The limit of four is the spec's own choice D19; the refusal,
the lost buffers and which bytes are taken are the model's (log 10, log 12, log 28); output leaves between steps only,
never in the call (log 11). -/
def Obligations.TsReadReturnsAtMostFourBytes : Prop :=
  ∀ (s : State) (timeout : Nat),
    (s.conn ≠ .closed → ∃ t, exec (.tsRead timeout) s = .next t ∧ KeepsSequencer s t ∧
      t.calls = s.calls ++ [.read timeout] ∧ t.line = s.line ∧
      ((∃ bs got, s.env.takeRead.1 = .arrived bs ∧ t.result = some (.bytes got) ∧ got.length = min 4 (s.rxBuf ++ bs).length ∧
        got ++ t.rxBuf = s.rxBuf ++ bs ∧ t.txBuf = s.txBuf ∧ t.conn = s.conn) ∨
       (s.env.takeRead.1 = .error ∧ t.result = some .readError ∧ t.conn = .closed ∧ t.rxBuf = [] ∧ t.txBuf = []))) ∧
    (s.conn = .closed → exec (.tsRead timeout) s = .refused .closedSession)

/-! ## Rules of the whole machine -/

/-- R124, R126: while only host operations are issued, a step changes at most one entry, only in phase `WRITE` or
`READ`, and only the commanded entry or the one a received response names. The premise is the spec's own choice D32
(log 25). -/
def Obligations.TableChangesOnlyByAnExchange : Prop :=
  ∀ (s t : State) (a : Byte), HostOnly s → step s = .next t → t.rss.read a ≠ s.rss.read a →
    (s.phase = .write ∧ a = s.cur.relay ∨
     s.phase = .read ∧ (a = s.cur.relay ∨ ∃ st c, t.result = some (.statusReceived a st c))) ∧
    ∀ b, b ≠ a → t.rss.read b = s.rss.read b

/-- R33 item 2, R21: from a state that meets the invariant, while only host operations are issued, entries 0 and 255
change only when a valid response naming that address is decoded. 256 entries and no address check are the spec's own
choice D9. -/
def Obligations.ExtremeEntriesNeedAResponse : Prop :=
  ∀ (s t : State) (a : Byte), Inv s → HostOnly s → step s = .next t → a.toNat = 0 ∨ a.toNat = 255 →
    t.rss.read a ≠ s.rss.read a → s.phase = .read ∧ ∃ st c, t.result = some (.statusReceived a st c)

/-- R181, R24: `conn` changes only inside a TS call, and never in a flush. -/
def Obligations.ConnectionChangesOnlyInsideTsCalls : Prop :=
  ∀ s t : State, step s = .next t → t.conn ≠ s.conn →
    ∃ new : List TsCall, t.calls = s.calls ++ new ∧ new ≠ [] ∧ TsCall.flush ∉ new

/-- R73: the result codes, and that bit 3 set means a failure. The numbers are the spec's own choice D7; code 0x0 on a
success that carries data is log 23. -/
def Obligations.ResultCodesMarkFailures : Prop :=
  Result.ok.code = some 0x0#4 ∧ (∀ a st c, (Result.decoded a st c).code = some 0x0#4) ∧ Result.sent.code = some 0x1#4 ∧
  (∀ a st c, (Result.statusReceived a st c).code = some 0x2#4) ∧
  Result.timeout.code = some 0x3#4 ∧ Result.connectionLost.code = some 0x4#4 ∧ Result.readError.code = some 0x7#4 ∧
  (∀ a, (Result.invalidAddress a).code = some 0x8#4) ∧ Result.notConnected.code = some 0x9#4 ∧
  Result.communicationError.code = some 0xA#4 ∧ Result.lengthError.code = some 0xB#4 ∧
  Result.checksumError.code = some 0xC#4 ∧ Result.headerError.code = some 0xD#4 ∧
  (∀ m, (Result.openError m).code = some 0xE#4) ∧ Result.writeError.code = some 0xF#4 ∧
  ∀ r : Result, r.code ≠ some 0x5#4 ∧ r.code ≠ some 0x6#4 ∧
    (r.isFailure = true ↔ (∃ a, r = .invalidAddress a) ∨ r = .notConnected ∨ r = .communicationError ∨ r = .lengthError ∨
      r = .checksumError ∨ r = .headerError ∨ (∃ m, r = .openError m) ∨ r = .writeError)
end

