-- ==== Sys2Proof/Laws/State.lean ====
section
/-! SUPPORT. What each update of the state does to each field: one lemma per field, true by rfl. -/

namespace Sys2Proof.Machine.State

variable (s : State)

@[simp] theorem rssWrite_rss (a : Byte) (v : RelayState) : (s.rssWrite a v).rss = s.rss.write a v := rfl
@[simp] theorem rssWrite_conn (a : Byte) (v : RelayState) : (s.rssWrite a v).conn = s.conn := rfl
@[simp] theorem rssWrite_phase (a : Byte) (v : RelayState) : (s.rssWrite a v).phase = s.phase := rfl
@[simp] theorem rssWrite_cur (a : Byte) (v : RelayState) : (s.rssWrite a v).cur = s.cur := rfl
@[simp] theorem rssWrite_rxBuf (a : Byte) (v : RelayState) : (s.rssWrite a v).rxBuf = s.rxBuf := rfl
@[simp] theorem rssWrite_txBuf (a : Byte) (v : RelayState) : (s.rssWrite a v).txBuf = s.txBuf := rfl
@[simp] theorem rssWrite_line (a : Byte) (v : RelayState) : (s.rssWrite a v).line = s.line := rfl
@[simp] theorem rssWrite_calls (a : Byte) (v : RelayState) : (s.rssWrite a v).calls = s.calls := rfl
@[simp] theorem rssWrite_env (a : Byte) (v : RelayState) : (s.rssWrite a v).env = s.env := rfl
@[simp] theorem rssWrite_inbox (a : Byte) (v : RelayState) : (s.rssWrite a v).inbox = s.inbox := rfl
@[simp] theorem rssWrite_result (a : Byte) (v : RelayState) : (s.rssWrite a v).result = s.result := rfl

@[simp] theorem ret_rss (r : Result) : (s.ret r).rss = s.rss := rfl
@[simp] theorem ret_conn (r : Result) : (s.ret r).conn = s.conn := rfl
@[simp] theorem ret_phase (r : Result) : (s.ret r).phase = s.phase := rfl
@[simp] theorem ret_cur (r : Result) : (s.ret r).cur = s.cur := rfl
@[simp] theorem ret_rxBuf (r : Result) : (s.ret r).rxBuf = s.rxBuf := rfl
@[simp] theorem ret_txBuf (r : Result) : (s.ret r).txBuf = s.txBuf := rfl
@[simp] theorem ret_line (r : Result) : (s.ret r).line = s.line := rfl
@[simp] theorem ret_calls (r : Result) : (s.ret r).calls = s.calls := rfl
@[simp] theorem ret_env (r : Result) : (s.ret r).env = s.env := rfl
@[simp] theorem ret_inbox (r : Result) : (s.ret r).inbox = s.inbox := rfl
@[simp] theorem ret_result (r : Result) : (s.ret r).result = some r := rfl

@[simp] theorem raise_rss (r : Result) : (s.raise r).rss = s.rss := rfl
@[simp] theorem raise_conn (r : Result) : (s.raise r).conn = s.conn := rfl
@[simp] theorem raise_phase (r : Result) : (s.raise r).phase = s.phase := rfl
@[simp] theorem raise_cur (r : Result) : (s.raise r).cur = s.cur := rfl
@[simp] theorem raise_rxBuf (r : Result) : (s.raise r).rxBuf = s.rxBuf := rfl
@[simp] theorem raise_txBuf (r : Result) : (s.raise r).txBuf = s.txBuf := rfl
@[simp] theorem raise_line (r : Result) : (s.raise r).line = s.line := rfl
@[simp] theorem raise_calls (r : Result) : (s.raise r).calls = s.calls := rfl
@[simp] theorem raise_env (r : Result) : (s.raise r).env = s.env := rfl
@[simp] theorem raise_inbox (r : Result) : (s.raise r).inbox = s.inbox := rfl
@[simp] theorem raise_result (r : Result) : (s.raise r).result = some r := rfl

@[simp] theorem goTo_rss (p : Phase) : (s.goTo p).rss = s.rss := rfl
@[simp] theorem goTo_conn (p : Phase) : (s.goTo p).conn = s.conn := rfl
@[simp] theorem goTo_phase (p : Phase) : (s.goTo p).phase = p := rfl
@[simp] theorem goTo_cur (p : Phase) : (s.goTo p).cur = s.cur := rfl
@[simp] theorem goTo_rxBuf (p : Phase) : (s.goTo p).rxBuf = s.rxBuf := rfl
@[simp] theorem goTo_txBuf (p : Phase) : (s.goTo p).txBuf = s.txBuf := rfl
@[simp] theorem goTo_line (p : Phase) : (s.goTo p).line = s.line := rfl
@[simp] theorem goTo_calls (p : Phase) : (s.goTo p).calls = s.calls := rfl
@[simp] theorem goTo_env (p : Phase) : (s.goTo p).env = s.env := rfl
@[simp] theorem goTo_inbox (p : Phase) : (s.goTo p).inbox = s.inbox := rfl
@[simp] theorem goTo_result (p : Phase) : (s.goTo p).result = none := rfl

@[simp] theorem finish_rss (r : Result) : (s.finish r).rss = s.rss := rfl
@[simp] theorem finish_conn (r : Result) : (s.finish r).conn = s.conn := rfl
@[simp] theorem finish_phase (r : Result) : (s.finish r).phase = .idle := rfl
@[simp] theorem finish_cur (r : Result) : (s.finish r).cur = Config.freeLatches s.env.draws := rfl
@[simp] theorem finish_rxBuf (r : Result) : (s.finish r).rxBuf = s.rxBuf := rfl
@[simp] theorem finish_txBuf (r : Result) : (s.finish r).txBuf = s.txBuf := rfl
@[simp] theorem finish_line (r : Result) : (s.finish r).line = s.line := rfl
@[simp] theorem finish_calls (r : Result) : (s.finish r).calls = s.calls := rfl
@[simp] theorem finish_env (r : Result) : (s.finish r).env = { s.env with draws := s.env.draws + 1 } := rfl
@[simp] theorem finish_inbox (r : Result) : (s.finish r).inbox = s.inbox := rfl
@[simp] theorem finish_result (r : Result) : (s.finish r).result = some r := rfl

@[simp] theorem hold_rss (i : Instr) : (s.hold i).rss = s.rss := rfl
@[simp] theorem hold_conn (i : Instr) : (s.hold i).conn = s.conn := rfl
@[simp] theorem hold_phase (i : Instr) : (s.hold i).phase = s.phase := rfl
@[simp] theorem hold_cur (i : Instr) : (s.hold i).cur = s.cur := rfl
@[simp] theorem hold_rxBuf (i : Instr) : (s.hold i).rxBuf = s.rxBuf := rfl
@[simp] theorem hold_txBuf (i : Instr) : (s.hold i).txBuf = s.txBuf := rfl
@[simp] theorem hold_line (i : Instr) : (s.hold i).line = s.line := rfl
@[simp] theorem hold_calls (i : Instr) : (s.hold i).calls = s.calls := rfl
@[simp] theorem hold_env (i : Instr) : (s.hold i).env = s.env := rfl
@[simp] theorem hold_inbox (i : Instr) : (s.hold i).inbox = encode i :: s.inbox := rfl
@[simp] theorem hold_result (i : Instr) : (s.hold i).result = none := rfl

@[simp] theorem record_rss (c : TsCall) : (s.record c).rss = s.rss := rfl
@[simp] theorem record_conn (c : TsCall) : (s.record c).conn = s.conn := rfl
@[simp] theorem record_phase (c : TsCall) : (s.record c).phase = s.phase := rfl
@[simp] theorem record_cur (c : TsCall) : (s.record c).cur = s.cur := rfl
@[simp] theorem record_rxBuf (c : TsCall) : (s.record c).rxBuf = s.rxBuf := rfl
@[simp] theorem record_txBuf (c : TsCall) : (s.record c).txBuf = s.txBuf := rfl
@[simp] theorem record_line (c : TsCall) : (s.record c).line = s.line := rfl
@[simp] theorem record_calls (c : TsCall) : (s.record c).calls = s.calls ++ [c] := rfl
@[simp] theorem record_env (c : TsCall) : (s.record c).env = s.env := rfl
@[simp] theorem record_inbox (c : TsCall) : (s.record c).inbox = s.inbox := rfl
@[simp] theorem record_result (c : TsCall) : (s.record c).result = s.result := rfl

@[simp] theorem hangUp_rss : (s.hangUp).rss = s.rss := rfl
@[simp] theorem hangUp_conn : (s.hangUp).conn = .closed := rfl
@[simp] theorem hangUp_phase : (s.hangUp).phase = s.phase := rfl
@[simp] theorem hangUp_cur : (s.hangUp).cur = s.cur := rfl
@[simp] theorem hangUp_rxBuf : (s.hangUp).rxBuf = [] := rfl
@[simp] theorem hangUp_txBuf : (s.hangUp).txBuf = [] := rfl
@[simp] theorem hangUp_line : (s.hangUp).line = s.line := rfl
@[simp] theorem hangUp_calls : (s.hangUp).calls = s.calls := rfl
@[simp] theorem hangUp_env : (s.hangUp).env = s.env := rfl
@[simp] theorem hangUp_inbox : (s.hangUp).inbox = s.inbox := rfl
@[simp] theorem hangUp_result : (s.hangUp).result = s.result := rfl

@[simp] theorem tsFlush_rss : (s.tsFlush).rss = s.rss := rfl
@[simp] theorem tsFlush_conn : (s.tsFlush).conn = s.conn := rfl
@[simp] theorem tsFlush_phase : (s.tsFlush).phase = s.phase := rfl
@[simp] theorem tsFlush_cur : (s.tsFlush).cur = s.cur := rfl
@[simp] theorem tsFlush_rxBuf : (s.tsFlush).rxBuf = [] := rfl
@[simp] theorem tsFlush_txBuf : (s.tsFlush).txBuf = [] := rfl
@[simp] theorem tsFlush_line : (s.tsFlush).line = s.line := rfl
@[simp] theorem tsFlush_calls : (s.tsFlush).calls = s.calls ++ [.flush] := rfl
@[simp] theorem tsFlush_env : (s.tsFlush).env = s.env := rfl
@[simp] theorem tsFlush_inbox : (s.tsFlush).inbox = s.inbox := rfl
@[simp] theorem tsFlush_result : (s.tsFlush).result = s.result := rfl

@[simp] theorem tsClose_rss : s.tsClose.rss = s.rss := rfl
@[simp] theorem tsClose_conn : s.tsClose.conn = .closed := rfl
@[simp] theorem tsClose_phase : s.tsClose.phase = s.phase := rfl
@[simp] theorem tsClose_cur : s.tsClose.cur = s.cur := rfl
@[simp] theorem tsClose_rxBuf : s.tsClose.rxBuf = [] := rfl
@[simp] theorem tsClose_txBuf : s.tsClose.txBuf = [] := rfl
@[simp] theorem tsClose_line : s.tsClose.line = s.line := rfl
@[simp] theorem tsClose_calls : s.tsClose.calls = s.calls ++ [.close] := rfl
@[simp] theorem tsClose_env : s.tsClose.env = s.env := rfl
@[simp] theorem tsClose_inbox : s.tsClose.inbox = s.inbox := rfl
@[simp] theorem tsClose_result : s.tsClose.result = s.result := rfl

end Sys2Proof.Machine.State
end

