-- ==== Sys2Proof/Laws/Codec.lean ====
section
/-! SUPPORT. Frames: which byte sequences pass the checks, and what the codes of the enumerations give back. -/

namespace Sys2Proof

theorem relayInRange_eq (a : Byte) : relayInRange a = isRelayAddress a := by
  simp [relayInRange, isRelayAddress, Config.addrMin, Config.addrMax, BitVec.le_def, Bool.decide_and]

theorem mkFrame_bytes (addr op : Byte) : (mkFrame addr op).bytes = [0xA0#8, addr, op, 0xA0#8 + addr + op] := rfl
@[simp] theorem mkFrame_addr (addr op : Byte) : (mkFrame addr op).addr = addr := rfl
@[simp] theorem mkFrame_op (addr op : Byte) : (mkFrame addr op).op = op := rfl

@[simp] theorem checkFrame_mkFrame (addr op : Byte) :
    checkFrame (mkFrame addr op).bytes = .ok (mkFrame addr op) := by
  simp [checkFrame, mkFrame, Frame.bytes, checksum, Config.header]

/-- The three checks on four bytes, in their order. -/
theorem checkFrame_four (b0 b1 b2 b3 : Byte) :
    checkFrame [b0, b1, b2, b3] =
      if b3 ≠ b0 + b1 + b2 then .error .checksumError
      else if b0 ≠ 0xA0#8 then .error .headerError
      else .ok ⟨b0, b1, b2, b3⟩ := rfl

theorem checkFrame_length {s : ByteSeq} (h : s.length ≠ 4) : checkFrame s = .error .lengthError := by
  unfold checkFrame
  split
  · simp at h
  · rfl

/-- The checks pass on exactly the well-formed frames. -/
theorem checkFrame_ok_iff (s : ByteSeq) (f : Frame) :
    checkFrame s = .ok f ↔ s = f.bytes ∧ f = mkFrame f.addr f.op := by
  constructor
  · intro h
    unfold checkFrame at h
    split at h
    · split at h
      · cases h
      · split at h
        · cases h
        · next hc hh =>
          cases h
          simp only [ne_eq, Decidable.not_not] at hc hh
          subst hc hh
          exact ⟨rfl, rfl⟩
    · cases h
  · rintro ⟨rfl, hf⟩
    rw [hf, checkFrame_mkFrame]

@[simp] theorem Action.ofCode_toCode (a : Action) : Action.ofCode a.toCode = a := by cases a <;> rfl
@[simp] theorem RelayState.ofCode_toCode (v : RelayState) : RelayState.ofCode v.toCode = some v := by cases v <;> rfl

end Sys2Proof
end

