-- ==== Sys2Proof/Laws/Memory.lean ====
section
/-! SUPPORT. The laws of the table: read after write, and that a write keeps the canonical form, which is unique. -/

namespace Sys2Proof.Machine.Memory

theorem read_put_same (m : Memory) (a : Byte) (v : RelayState) : (m.put a.toNat v).read a = v := by
  induction m with
  | nil => simp [put, read]
  | cons c m ih =>
    simp only [put]
    split
    · simp [read]
    · split
      · simp [read]
      · next h => simp [read, Ne.symm h, ih]

theorem read_put_ne (m : Memory) {a b : Byte} (v : RelayState) (h : b ≠ a) :
    (m.put a.toNat v).read b = m.read b := by
  have hn : a.toNat ≠ b.toNat := fun e => h (BitVec.eq_of_toNat_eq e.symm)
  induction m with
  | nil => simp [put, read, hn]
  | cons c m ih =>
    simp only [put]
    split
    · simp [read, hn]
    · split
      · next hc => simp [read, hn, ← hc]
      · simp [read, ih]

theorem read_filter_same (m : Memory) (a : Byte) :
    (Memory.read (m.filter fun c => c.1 ≠ a.toNat) a) = .unknown := by
  induction m with
  | nil => rfl
  | cons c m ih => by_cases hc : c.1 = a.toNat <;> simp_all [read]

theorem read_filter_ne (m : Memory) {a b : Byte} (h : b ≠ a) :
    (Memory.read (m.filter fun c => c.1 ≠ a.toNat) b) = m.read b := by
  have hn : a.toNat ≠ b.toNat := fun e => h (BitVec.eq_of_toNat_eq e.symm)
  induction m with
  | nil => rfl
  | cons c m ih => by_cases hc : c.1 = a.toNat <;> simp_all [read]

/-- A read after a write to the same index gives the value written. -/
@[simp] theorem read_write_same (m : Memory) (a : Byte) (v : RelayState) : (m.write a v).read a = v := by
  unfold write
  split
  · next h => rw [read_filter_same, h]
  · exact read_put_same m a v

/-- A write leaves every other index alone. -/
theorem read_write_ne (m : Memory) {a b : Byte} (v : RelayState) (h : b ≠ a) :
    (m.write a v).read b = m.read b := by
  unfold write
  split
  · exact read_filter_ne m h
  · exact read_put_ne m v h

theorem entrySet_write (m : Memory) (a : Byte) (v : RelayState) : EntrySet m (m.write a v) a v :=
  ⟨read_write_same m a v, fun _ h => read_write_ne m v h⟩

/-- What is listed after `put` was listed before, or is the new pair. -/
theorem mem_put {m : Memory} {k : Nat} {v : RelayState} {c : Nat × RelayState} (h : c ∈ m.put k v) :
    c = (k, v) ∨ c ∈ m := by
  induction m with
  | nil => simpa [put] using h
  | cons d m ih =>
    simp only [put] at h
    split at h
    · simpa using h
    · split at h
      · rcases List.mem_cons.1 h with h | h
        · exact .inl h
        · exact .inr (List.mem_cons_of_mem _ h)
      · rcases List.mem_cons.1 h with h | h
        · exact .inr (h ▸ List.mem_cons_self)
        · exact (ih h).imp id (List.mem_cons_of_mem _)

theorem put_pairwise {m : Memory} (k : Nat) (v : RelayState)
    (h : m.Pairwise fun c d => c.1 < d.1) : (m.put k v).Pairwise fun c d => c.1 < d.1 := by
  induction m with
  | nil => simp [put]
  | cons d m ih =>
    obtain ⟨hd, hm⟩ := List.pairwise_cons.1 h
    simp only [put]
    split
    · next hk =>
      refine List.pairwise_cons.2 ⟨fun c hc => ?_, h⟩
      rcases List.mem_cons.1 hc with rfl | hc
      · exact hk
      · exact hk.trans (hd c hc)
    · split
      · next hk => exact List.pairwise_cons.2 ⟨fun c hc => hk ▸ hd c hc, hm⟩
      · next hk hne =>
        refine List.pairwise_cons.2 ⟨fun c hc => ?_, ih hm⟩
        rcases mem_put hc with rfl | hc
        · exact lt_of_le_of_ne (not_lt.1 hk) (Ne.symm hne)
        · exact hd c hc

/-- Every write keeps the canonical form. -/
theorem write_wf {m : Memory} (h : m.wf) (a : Byte) (v : RelayState) : (m.write a v).wf := by
  unfold write
  split
  · exact ⟨h.1.filter _, fun c hc => h.2 c (List.mem_of_mem_filter hc)⟩
  · next hv =>
    refine ⟨put_pairwise _ _ h.1, fun c hc => ?_⟩
    rcases mem_put hc with rfl | hc
    · exact ⟨a.isLt, hv⟩
    · exact h.2 c hc

/-- An index above every listed one reads `Unknown`. -/
theorem read_unknown_of_lt {m : Memory} {a : Byte} (h : ∀ c ∈ m, a.toNat < c.1) : m.read a = .unknown := by
  induction m with
  | nil => rfl
  | cons c m ih =>
    have hc := h c List.mem_cons_self
    rw [read, if_neg (by omega), ih fun d hd => h d (List.mem_cons_of_mem _ hd)]

/-- Equal tables are equal data: the canonical form is unique. -/
theorem ext_of_wf {m m' : Memory} (h : m.wf) (h' : m'.wf) (heq : ∀ a, m.read a = m'.read a) : m = m' := by
  induction m generalizing m' with
  | nil =>
    cases m' with
    | nil => rfl
    | cons d m' =>
      obtain ⟨hlt, hne⟩ := h'.2 d List.mem_cons_self
      have := heq (BitVec.ofNat 8 d.1)
      simp [read, Nat.mod_eq_of_lt hlt] at this
      exact absurd this.symm hne
  | cons c m ih =>
    obtain ⟨hcm, hm⟩ := List.pairwise_cons.1 h.1
    obtain ⟨hlt, hne⟩ := h.2 c List.mem_cons_self
    have hcn : (BitVec.ofNat 8 c.1).toNat = c.1 := by simp [Nat.mod_eq_of_lt hlt]
    have hc : Memory.read (c :: m) (BitVec.ofNat 8 c.1) = c.2 := by simp [read, hcn]
    cases m' with
    | nil => exact absurd (hc.symm.trans (heq _)) (by simpa [read] using hne)
    | cons d m' =>
      obtain ⟨hdm, hm'⟩ := List.pairwise_cons.1 h'.1
      obtain ⟨hlt', hne'⟩ := h'.2 d List.mem_cons_self
      have hdn : (BitVec.ofNat 8 d.1).toNat = d.1 := by simp [Nat.mod_eq_of_lt hlt']
      have hd : Memory.read (d :: m') (BitVec.ofNat 8 d.1) = d.2 := by simp [read, hdn]
      have key : c.1 = d.1 := by
        rcases Nat.lt_trichotomy c.1 d.1 with hl | he | hl
        · refine absurd (hc.symm.trans ((heq _).trans (read_unknown_of_lt fun e he => ?_))) hne
          rcases List.mem_cons.1 he with rfl | he
          · omega
          · have := hdm e he; omega
        · exact he
        · refine absurd (hd.symm.trans ((heq _).symm.trans (read_unknown_of_lt fun e he => ?_))) hne'
          rcases List.mem_cons.1 he with rfl | he
          · omega
          · have := hcm e he; omega
      have hval : c.2 = d.2 := by rw [← hc, heq, key, hd]
      have hcd : c = d := Prod.ext key hval
      subst hcd
      refine congrArg (c :: ·) (ih ⟨hm, fun e he => h.2 e (List.mem_cons_of_mem _ he)⟩
        ⟨hm', fun e he => h'.2 e (List.mem_cons_of_mem _ he)⟩ fun a => ?_)
      by_cases ha : c.1 = a.toNat
      · rw [read_unknown_of_lt fun e he => by have := hcm e he; omega,
          read_unknown_of_lt fun e he => by have := hdm e he; omega]
      · simpa [read, ha] using heq a

end Sys2Proof.Machine.Memory
end

