-- ==== Sys2Proof/Laws/Ops.lean ====
section
/-! SUPPORT. Each shared operation, said once: what it answers and what it does to each field. -/

namespace Sys2Proof.Machine

/-! ## Operands and codecs -/

theorem frameOf_eq (relay op : Byte) :
    frameOf relay op = if isRelayAddress relay then some (mkFrame relay op) else none := by
  rw [frameOf, relayInRange_eq]

theorem selectOp_le (action : Action) (expect : Bool) : (selectOp action expect).toNat ≤ 5 := by
  cases action <;> cases expect <;> decide

theorem isCommandFrame_mkFrame {relay op : Byte} (h : isRelayAddress relay = true) (ho : op.toNat ≤ 5) :
    IsCommandFrame (mkFrame relay op) := ⟨rfl, rfl, h, ho⟩

theorem decodeFrame_length {s : ByteSeq} (h : s.length ≠ 4) : decodeFrame s = .error .lengthError := by
  rw [decodeFrame, checkFrame_length h]

theorem decodeFrame_four (b0 b1 b2 b3 : Byte) :
    decodeFrame [b0, b1, b2, b3] =
      if b3 ≠ b0 + b1 + b2 then .error .checksumError
      else if b0 ≠ 0xA0#8 then .error .headerError
      else .ok (b1, stateOf b2, b2) := by
  rw [decodeFrame, checkFrame_four]
  by_cases hc : b3 = b0 + b1 + b2
  · by_cases hh : b0 = 0xA0#8 <;> simp [hc, hh]
  · simp [hc]

/-- Running the response class of a frame: its address and status code reach DEC, and SEQ in phase `READ`. -/
theorem exec_responseOf (f : Frame) (s : State) : exec (responseOf f) s = .next (s.response f.addr f.op) := by
  unfold responseOf
  by_cases h0 : f.op = 0x00#8
  · rw [if_pos h0, h0]; rfl
  by_cases h1 : f.op = 0x01#8
  · rw [if_neg h0, if_pos h1, h1]; rfl
  by_cases h2 : f.op = 0x02#8
  · rw [if_neg h0, if_neg h1, if_pos h2, h2]; rfl
  by_cases h3 : f.op = 0x03#8
  · rw [if_neg h0, if_neg h1, if_neg h2, if_pos h3, h3]; rfl
  rw [if_neg h0, if_neg h1, if_neg h2, if_neg h3]; rfl

/-! ## The environment's answers: a draw changes its own list and the counter only -/

theorem Env.takeWrite_cons {e : Env} {w : WriteAnswer} {ws : List WriteAnswer} (h : e.writes = w :: ws) :
    e.takeWrite = (w, { e with writes := ws }) := by rw [takeWrite, h]
theorem Env.takeRead_cons {e : Env} {r : ReadAnswer} {rs : List ReadAnswer} (h : e.reads = r :: rs) :
    e.takeRead = (r, { e with reads := rs }) := by rw [takeRead, h]
theorem Env.takeDrain_cons {e : Env} {n : Nat} {ns : List Nat} (h : e.drains = n :: ns) :
    e.takeDrain = (n, { e with drains := ns }) := by rw [takeDrain, h]
theorem Env.takeArrival_cons {e : Env} {bs : ByteSeq} {bss : List ByteSeq} (h : e.arrivals = bs :: bss) :
    e.takeArrival = (bs, { e with arrivals := bss }) := by rw [takeArrival, h]
theorem Env.takeOpen_cons {e : Env} {o : OpenAnswer} {os : List OpenAnswer} (h : e.opens = o :: os) :
    e.takeOpen = (o, { e with opens := os }) := by rw [takeOpen, h]

@[simp] theorem Env.takeDrain_writes (e : Env) : e.takeDrain.2.writes = e.writes := by unfold takeDrain; split <;> rfl
@[simp] theorem Env.takeDrain_reads (e : Env) : e.takeDrain.2.reads = e.reads := by unfold takeDrain; split <;> rfl
@[simp] theorem Env.takeDrain_opens (e : Env) : e.takeDrain.2.opens = e.opens := by unfold takeDrain; split <;> rfl
@[simp] theorem Env.takeArrival_writes (e : Env) : e.takeArrival.2.writes = e.writes := by unfold takeArrival; split <;> rfl
@[simp] theorem Env.takeArrival_reads (e : Env) : e.takeArrival.2.reads = e.reads := by unfold takeArrival; split <;> rfl
@[simp] theorem Env.takeArrival_opens (e : Env) : e.takeArrival.2.opens = e.opens := by unfold takeArrival; split <;> rfl
@[simp] theorem Env.takeArrival_drains (e : Env) : e.takeArrival.2.drains = e.drains := by unfold takeArrival; split <;> rfl
@[simp] theorem Env.takeDrain_arrivals (e : Env) : e.takeDrain.2.arrivals = e.arrivals := by unfold takeDrain; split <;> rfl
@[simp] theorem Env.takeWrite_arrivals (e : Env) : e.takeWrite.2.arrivals = e.arrivals := by unfold takeWrite; split <;> rfl
@[simp] theorem Env.takeWrite_reads (e : Env) : e.takeWrite.2.reads = e.reads := by unfold takeWrite; split <;> rfl

/-! ## The end of an exchange that writes one entry -/

theorem State.entrySet_write_finish (s : State) (a : Byte) (v : RelayState) (r : Result) :
    EntrySet s.rss ((s.rssWrite a v).finish r).rss a v := Memory.entrySet_write s.rss a v

theorem State.entrySet_invalidate_finish (s : State) (a : Byte) (r : Result) :
    EntrySet s.rss ((s.invalidate a).finish r).rss a .unknown := Memory.entrySet_write s.rss a .unknown

/-! ## The environment's move -/

namespace State

variable (s : State)

@[simp] theorem envMove_rss : s.envMove.rss = s.rss := by unfold envMove; split <;> rfl
@[simp] theorem envMove_conn : s.envMove.conn = s.conn := by unfold envMove; split <;> rfl
@[simp] theorem envMove_phase : s.envMove.phase = s.phase := by unfold envMove; split <;> rfl
@[simp] theorem envMove_cur : s.envMove.cur = s.cur := by unfold envMove; split <;> rfl
@[simp] theorem envMove_calls : s.envMove.calls = s.calls := by unfold envMove; split <;> rfl
@[simp] theorem envMove_inbox : s.envMove.inbox = s.inbox := by unfold envMove; split <;> rfl
@[simp] theorem envMove_result : s.envMove.result = s.result := by unfold envMove; split <;> rfl
@[simp] theorem envMove_opens : s.envMove.env.opens = s.env.opens := by unfold envMove; split <;> simp
@[simp] theorem envMove_writes : s.envMove.env.writes = s.env.writes := by unfold envMove; split <;> simp
@[simp] theorem envMove_reads : s.envMove.env.reads = s.env.reads := by unfold envMove; split <;> simp

/-- On a closed session nothing moves. -/
theorem envMove_of_closed (h : s.conn = .closed) : s.envMove = s := by
  rw [envMove]; split
  · rfl
  · next h' => rw [h] at h'; cases h'

/-- On an open session both buffers move, the line grows by what left, and the environment's answers are used up. -/
theorem envMove_of_open (h : s.conn ≠ .closed) : s.envMove =
    { s with
      env := s.env.takeDrain.2.takeArrival.2
      line := s.line ++ s.txBuf.take s.env.takeDrain.1
      txBuf := s.txBuf.drop s.env.takeDrain.1
      rxBuf := s.rxBuf ++ s.env.takeDrain.2.takeArrival.1 } := by
  rw [envMove]; split
  · next h' => exact absurd h' h
  · rfl

/-- The bytes listed as coming in come in, and the next step's are next. -/
theorem envMove_arrivals {bs : ByteSeq} {bss : List ByteSeq} (h : s.conn ≠ .closed) (ha : s.env.arrivals = bs :: bss) :
    s.envMove.rxBuf = s.rxBuf ++ bs ∧ s.envMove.env.arrivals = bss := by
  rw [envMove_of_open s h, Env.takeArrival_cons (bs := bs) (bss := bss) (by simp [ha])]
  exact ⟨rfl, rfl⟩

end State

/-! ## TS -/

namespace State

variable (s : State)

/-- The two outcomes of `TS.WRITE`. -/
theorem tsWrite_cases (f : Frame) :
    (s.env.takeWrite.1 = .ok ∧ s.tsWrite f =
      (true, { s.record (.write f) with env := s.env.takeWrite.2, txBuf := s.txBuf ++ f.bytes })) ∨
    ∃ n, s.env.takeWrite.1 = .error n ∧ s.tsWrite f =
      (false, { s.record (.write f) with
        env := s.env.takeWrite.2, line := s.line ++ (s.txBuf ++ f.bytes).take n }.hangUp) := by
  cases h : s.env.takeWrite.1 with
  | ok => exact .inl ⟨rfl, by simp only [tsWrite, record_env, h, record_txBuf]⟩
  | error n => exact .inr ⟨n, rfl, by simp only [tsWrite, record_env, h, record_txBuf, record_line]⟩

/-- The two outcomes of `TS.READ`. -/
theorem tsRead_cases (timeout : Nat) :
    (∃ bs, s.env.takeRead.1 = .arrived bs ∧ s.tsRead timeout =
      (some ((s.rxBuf ++ bs).take 4),
        { s.record (.read timeout) with env := s.env.takeRead.2, rxBuf := (s.rxBuf ++ bs).drop 4 })) ∨
    (s.env.takeRead.1 = .error ∧ s.tsRead timeout =
      (none, { s.record (.read timeout) with env := s.env.takeRead.2 }.hangUp)) := by
  cases h : s.env.takeRead.1 with
  | arrived bs => exact .inl ⟨bs, rfl, by simp only [tsRead, record_env, h]; rfl⟩
  | error => exact .inr ⟨rfl, by simp only [tsRead, record_env, h]⟩

/-- The two outcomes of `TS.OPEN`. -/
theorem tsOpen_cases (port : PortId) (baud readTimeout : Nat) :
    (∃ u v, s.env.takeOpen.1 = .ok u v ∧ s.tsOpen port baud readTimeout =
      (none, { s.record (.openPort port baud readTimeout) with
        env := s.env.takeOpen.2, conn := .openOn port, rxBuf := u, txBuf := v })) ∨
    ∃ msg, s.env.takeOpen.1 = .error msg ∧ s.tsOpen port baud readTimeout =
      (some msg, { s.record (.openPort port baud readTimeout) with env := s.env.takeOpen.2 }) := by
  cases h : s.env.takeOpen.1 with
  | ok u v => exact .inl ⟨u, v, rfl, by simp only [tsOpen, record_env, h]⟩
  | error msg => exact .inr ⟨msg, rfl, by simp only [tsOpen, record_env, h]⟩

end State
end Sys2Proof.Machine
end

