-- ==== Sys2Proof/Laws/PerInstr.lean ====
section
/-! SUPPORT. Statements made per instruction. RoundTrip: a well-formed instruction is what its transaction decodes to. -/

namespace Sys2Proof.Laws.RoundTrip

def Statement (i : Instr) : Prop := i.wellFormed = true → decode (encode i) = .ok i

theorem cmdOff (relay : Byte) : Statement (.cmdOff relay) := fun h => by
  simp_all [encode, decode, decodeBytes, commandOf, relayInRange_eq, Instr.wellFormed]
theorem cmdOn (relay : Byte) : Statement (.cmdOn relay) := fun h => by
  simp_all [encode, decode, decodeBytes, commandOf, relayInRange_eq, Instr.wellFormed]
theorem cmdOffAck (relay : Byte) : Statement (.cmdOffAck relay) := fun h => by
  simp_all [encode, decode, decodeBytes, commandOf, relayInRange_eq, Instr.wellFormed]
theorem cmdOnAck (relay : Byte) : Statement (.cmdOnAck relay) := fun h => by
  simp_all [encode, decode, decodeBytes, commandOf, relayInRange_eq, Instr.wellFormed]
theorem cmdToggle (relay : Byte) : Statement (.cmdToggle relay) := fun h => by
  simp_all [encode, decode, decodeBytes, commandOf, relayInRange_eq, Instr.wellFormed]
theorem cmdQuery (relay : Byte) : Statement (.cmdQuery relay) := fun h => by
  simp_all [encode, decode, decodeBytes, commandOf, relayInRange_eq, Instr.wellFormed]
theorem rspOff (addr : Byte) : Statement (.rspOff addr) := fun _ => by
  simp [encode, decode, decodeBytes, responseOf]
theorem rspOn (addr : Byte) : Statement (.rspOn addr) := fun _ => by
  simp [encode, decode, decodeBytes, responseOf]
theorem rspOffAck (addr : Byte) : Statement (.rspOffAck addr) := fun _ => by
  simp [encode, decode, decodeBytes, responseOf]
theorem rspOnAck (addr : Byte) : Statement (.rspOnAck addr) := fun _ => by
  simp [encode, decode, decodeBytes, responseOf]
theorem rspUnknown (addr status : Byte) : Statement (.rspUnknown addr status) := fun h => by
  have h : 4 ≤ status.toNat := by simpa [Instr.wellFormed] using h
  have hne (c : Byte) (hc : c.toNat < 4) : status ≠ c := fun e => by subst e; omega
  simp [encode, decode, decodeBytes, responseOf, hne]
theorem encSelect (action : Action) (expect : Bool) : Statement (.encSelect action expect) := fun _ => by
  simp [encode, decode, decodeOperation]
theorem encFrame (relay op : Byte) : Statement (.encFrame relay op) := fun _ => rfl
theorem encAction (relay : Byte) (action : Action) (expect : Bool) : Statement (.encAction relay action expect) := fun _ => by
  simp [encode, decode, decodeOperation]
theorem decFrame (bytes : ByteSeq) : Statement (.decFrame bytes) := fun _ => rfl
theorem decMap (code : Byte) : Statement (.decMap code) := fun _ => rfl
theorem rssGet (a : Byte) : Statement (.rssGet a) := fun _ => rfl
theorem rssSet (a : Byte) (v : RelayState) : Statement (.rssSet a v) := fun _ => by
  simp [encode, decode, decodeOperation]
theorem rssInvalidate (a : Byte) : Statement (.rssInvalidate a) := fun _ => rfl
theorem currentState (a : Byte) : Statement (.currentState a) := fun _ => rfl
theorem execute (relay : Byte) (action : Action) (expect : Bool) : Statement (.execute relay action expect) := fun _ => by
  simp [encode, decode, decodeOperation]
theorem connect (port : PortId) : Statement (.connect port) := fun _ => rfl
theorem disconnect : Statement .disconnect := fun _ => rfl
theorem tsOpen (port : PortId) (baud readTimeout : Nat) : Statement (.tsOpen port baud readTimeout) := fun _ => rfl
theorem tsClose : Statement .tsClose := fun _ => rfl
theorem tsFlush : Statement .tsFlush := fun _ => rfl
theorem tsWrite (f : Frame) : Statement (.tsWrite f) := fun _ => rfl
theorem tsRead (timeout : Nat) : Statement (.tsRead timeout) := fun _ => rfl

end Sys2Proof.Laws.RoundTrip
end

