-- ==== Sys2Proof/Laws/Seq.lean ====
section
/-! SUPPORT. Each phase of an exchange, said once: its step on an open session, and its end for each answer the environment
gives. -/

namespace Sys2Proof.Machine

/-! ## What the block does in each phase -/

theorem act_flush {s : State} (h : s.phase = .flush) (hc : s.conn ≠ .closed) :
    act s = .next (s.tsFlush.goTo .write) := by
  simp only [act, h, seqFlush]
  split
  · exact absurd ‹_› hc
  · rfl

theorem act_write {s : State} (h : s.phase = .write) (hc : s.conn ≠ .closed) : act s = .next s.writePhase := by
  simp only [act, h, seqWrite]
  split
  · exact absurd ‹_› hc
  · rfl

theorem act_read {s : State} (h : s.phase = .read) (hc : s.conn ≠ .closed) : act s = .next s.readPhase := by
  simp only [act, h, seqRead]
  split
  · exact absurd ‹_› hc
  · rfl

theorem act_busy_closed {s : State} (h : s.phase ≠ .idle) (hc : s.conn = .closed) :
    act s = .refused .closedSession := by
  cases hp : s.phase <;> simp_all [act, seqFlush, seqWrite, seqRead]

/-! ## Losing the connection -/

/-- What `lose` does. -/
theorem State.lose_facts (s : State) (r : Result) :
    (s.lose r).conn = .closed ∧ (s.lose r).rss = s.rss.write s.cur.relay .unknown ∧ (s.lose r).phase = .idle ∧
    (s.lose r).result = some r ∧ (s.lose r).rxBuf = [] ∧ (s.lose r).txBuf = [] ∧ (s.lose r).line = s.line ∧
    (s.lose r).calls = s.calls ++ [.close] ∧ (s.lose r).inbox = s.inbox := by
  exact ⟨rfl, rfl, rfl, rfl, rfl, rfl, rfl, rfl, rfl⟩

/-- `CONNECT` leaves the table, the phase, the latches and the port alone. -/
theorem State.connect_keeps (s : State) (port : PortId) : KeepsSequencer s (s.connect port) := by
  have key (s1 : State) : KeepsSequencer s1 (match s1.tsOpen port Config.baud Config.readTimeout with
      | (none, s2) => s2.ret .ok
      | (some msg, s2) => s2.raise (.openError msg)) := by
    rcases s1.tsOpen_cases port Config.baud Config.readTimeout with ⟨u, v, -, he⟩ | ⟨m, -, he⟩ <;> rw [he] <;>
      exact ⟨rfl, rfl, rfl, rfl⟩
  unfold connect
  cases s.conn with
  | closed => exact key s
  | openOn p =>
    obtain ⟨h1, h2, h3, h4⟩ := key s.tsClose
    exact ⟨h1.trans (by simp), h2.trans (by simp), h3.trans (by simp), h4.trans (by simp)⟩

/-! ## Phase WRITE -/

/-- The frame of the latched operands. -/
abbrev State.commandFrame (s : State) : Frame := mkFrame s.cur.relay (selectOp s.cur.action s.cur.expect)

/-- Phase `WRITE` where the TS answers `WriteError`: `s1` is the state that call leaves. -/
theorem State.writePhase_error {s : State} {n : Nat} (hr : isRelayAddress s.cur.relay = true)
    (hw : s.env.takeWrite.1 = .error n) :
    ∃ s1 : State, s.writePhase = s1.lose .communicationError ∧ s1.conn = .closed ∧ s1.rss = s.rss ∧ s1.cur = s.cur ∧
      s1.phase = s.phase ∧ s1.inbox = s.inbox ∧ s1.calls = s.calls ++ [.write s.commandFrame] ∧
      s1.line = s.line ++ (s.txBuf ++ s.commandFrame.bytes).take n := by
  rcases s.tsWrite_cases s.commandFrame with ⟨h, -⟩ | ⟨m, h, he⟩
  · rw [h] at hw; cases hw
  · refine ⟨(s.tsWrite s.commandFrame).2, ?_, ?_⟩
    · simp only [writePhase, frameOf_eq, hr, if_true, he]
    · rw [he]
      rw [h] at hw; cases hw
      exact ⟨rfl, rfl, rfl, rfl, rfl, rfl, rfl⟩

/-- Phase `WRITE` where the TS answers `Ok`: `s1` is the state that call leaves. -/
theorem State.writePhase_ok {s : State} (hr : isRelayAddress s.cur.relay = true)
    (hw : s.env.takeWrite.1 = .ok) :
    ∃ s1 : State,
      s.writePhase = (if awaits s.cur.action s.cur.expect then s1.goTo .read else s1.optimistic.finish .sent) ∧
      s1.conn = s.conn ∧ s1.rss = s.rss ∧ s1.cur = s.cur ∧ s1.phase = s.phase ∧ s1.rxBuf = s.rxBuf ∧
      s1.inbox = s.inbox ∧ s1.calls = s.calls ++ [.write s.commandFrame] ∧
      s1.line = s.line ∧ s1.txBuf = s.txBuf ++ s.commandFrame.bytes ∧
      s1.env = s.env.takeWrite.2 := by
  rcases s.tsWrite_cases s.commandFrame with ⟨h, he⟩ | ⟨m, h, he⟩
  · refine ⟨(s.tsWrite s.commandFrame).2, ?_, ?_⟩
    · simp only [writePhase, frameOf_eq, hr, if_true, he]
      rfl
    · rw [he]
      exact ⟨rfl, rfl, rfl, rfl, rfl, rfl, rfl, rfl, rfl, rfl⟩
  · rw [h] at hw; cases hw

/-! ## Phase READ -/

/-- Phase `READ` where the TS answers `ReadError`. -/
theorem State.readPhase_error {s : State} (hw : s.env.takeRead.1 = .error) :
    ∃ s1 : State, s.readPhase = s1.lose .connectionLost ∧ s1.conn = .closed ∧ s1.rss = s.rss ∧ s1.cur = s.cur ∧
      s1.phase = s.phase ∧ s1.inbox = s.inbox ∧ s1.calls = s.calls ++ [.read Config.readTimeout] ∧
      s1.line = s.line := by
  rcases s.tsRead_cases Config.readTimeout with ⟨b, h, -⟩ | ⟨-, he⟩
  · rw [h] at hw; cases hw
  · refine ⟨(s.tsRead Config.readTimeout).2, ?_, ?_⟩
    · simp only [readPhase, he]
    · rw [he]
      exact ⟨rfl, rfl, rfl, rfl, rfl, rfl, rfl⟩

/-- Phase `READ` where bytes arrive: what becomes of the first four of what is unread and arrives. -/
theorem State.readPhase_arrived {s : State} {bs : ByteSeq} (hw : s.env.takeRead.1 = .arrived bs) :
    ∃ s1 : State,
      s.readPhase = (match (s.rxBuf ++ bs).take 4 with
        | [] => (s1.invalidate s1.cur.relay).finish .timeout
        | bytes =>
          match decodeFrame bytes with
          | .error e => (s1.invalidate s1.cur.relay).finish (errorResult e)
          | .ok (addr, state, code) => s1.statusReceived addr state code) ∧
      s1.rss = s.rss ∧ s1.cur = s.cur ∧ s1.conn = s.conn ∧ s1.inbox = s.inbox ∧
      s1.calls = s.calls ++ [.read Config.readTimeout] ∧ s1.rxBuf = (s.rxBuf ++ bs).drop 4 ∧
      s1.line = s.line ∧ s1.txBuf = s.txBuf := by
  rcases s.tsRead_cases Config.readTimeout with ⟨b, h, he⟩ | ⟨h, -⟩
  · rw [h] at hw; cases hw
    refine ⟨(s.tsRead Config.readTimeout).2, ?_, ?_⟩
    · simp only [readPhase, he]
      generalize List.take 4 (s.rxBuf ++ bs) = l
      cases l <;> rfl
    · rw [he]
      exact ⟨rfl, rfl, rfl, rfl, rfl, rfl, rfl, rfl⟩
  · rw [h] at hw; cases hw

end Sys2Proof.Machine
end

