-- ==== Sys2Proof/Laws/Step.lean ====
section
/-! SUPPORT. What the block can do in phase `IDLE`, said once: for any instruction, and for the transaction next at the port. -/

namespace Sys2Proof.Machine

/-- In phase `IDLE` an instruction leaves the phase and writes at most one entry, or it is an accepted `EXECUTE`. -/
theorem exec_idle_cases (i : Instr) (s t : State) (hp : s.phase = .idle) (h : exec i s = .next t) :
   (t.phase = .idle ∧ (t.rss = s.rss ∨ ∃ a v, t.rss = s.rss.write a v)) ∨
   (t.phase = .flush ∧ t.rss = s.rss ∧ isRelayAddress t.cur.relay = true ∧ s.conn ≠ .closed ∧ t.conn = s.conn) := by
  have rf (r o : Byte) : (s.returnFrame r o).phase = .idle ∧ (s.returnFrame r o).rss = s.rss := by
    unfold State.returnFrame; split <;> exact ⟨hp, rfl⟩
  cases i
  case execute r a e =>
    simp only [exec, execExecute, hp, relayInRange_eq] at h
    split at h
    · split at h
      · cases h; exact .inl ⟨hp, .inl rfl⟩
      · cases h; refine .inr ⟨rfl, rfl, ‹_›, ?_, rfl⟩; rw [‹s.conn = _›]; simp
    · cases h; exact .inl ⟨hp, .inl rfl⟩
  case connect p =>
    simp only [exec, execConnect, hp] at h
    cases h
    obtain ⟨h1, h2, -, -⟩ := s.connect_keeps p
    exact .inl ⟨h2.trans hp, .inl h1⟩
  case tsOpen p b r =>
    simp only [exec, execTsOpen] at h
    split at h
    · cases h
    · rcases State.tsOpen_cases s p b r with ⟨u, v, -, he⟩ | ⟨m, -, he⟩ <;> rw [he] at h <;> cases h <;> exact .inl ⟨hp, .inl rfl⟩
  case tsWrite f =>
    simp only [exec, execTsWrite] at h
    split at h
    · cases h
    · rcases State.tsWrite_cases s f with ⟨-, he⟩ | ⟨m, -, he⟩ <;> rw [he] at h <;> cases h <;> exact .inl ⟨hp, .inl rfl⟩
  case tsRead n =>
    simp only [exec, execTsRead] at h
    split at h
    · cases h
    · rcases State.tsRead_cases s n with ⟨u, -, he⟩ | ⟨-, he⟩ <;> rw [he] at h <;> cases h <;> exact .inl ⟨hp, .inl rfl⟩
  case tsFlush =>
    simp only [exec, execTsFlush] at h
    split at h
    · cases h
    · cases h; exact .inl ⟨hp, .inl rfl⟩
  case tsClose => cases h; exact .inl ⟨by simp [hp], .inl (by simp)⟩
  case disconnect =>
    simp only [exec, execDisconnect, hp] at h
    cases h; exact .inl ⟨by simp [hp], .inl (by simp)⟩
  case currentState a =>
    simp only [exec, execCurrentState, hp] at h
    cases h; exact .inl ⟨hp, .inl rfl⟩
  case rssSet a v => cases h; exact .inl ⟨hp, .inr ⟨_, _, rfl⟩⟩
  case rssInvalidate a => cases h; exact .inl ⟨hp, .inr ⟨a, .unknown, rfl⟩⟩
  case rspOff a => simp [exec, execRspOff, State.response, hp] at h; subst h; exact .inl ⟨hp, .inl rfl⟩
  case rspOn a => simp [exec, execRspOn, State.response, hp] at h; subst h; exact .inl ⟨hp, .inl rfl⟩
  case rspOffAck a => simp [exec, execRspOffAck, State.response, hp] at h; subst h; exact .inl ⟨hp, .inl rfl⟩
  case rspOnAck a => simp [exec, execRspOnAck, State.response, hp] at h; subst h; exact .inl ⟨hp, .inl rfl⟩
  case rspUnknown a c => simp [exec, execRspUnknown, State.response, hp] at h; subst h; exact .inl ⟨hp, .inl rfl⟩
  all_goals
    cases h
    first | exact .inl ⟨(rf _ _).1, .inl (rf _ _).2⟩ | exact .inl ⟨hp, .inl rfl⟩


/-- In phase `IDLE` the block holds its state, runs the next instruction, or answers malformed bytes. -/
theorem act_idle_cases {s t : State} (hp : s.phase = .idle) (h : act s = .next t) :
    t = s ∨ ∃ x rest, s.inbox = x :: rest ∧
      ((∃ i, decode x = .ok i ∧ exec i { s with inbox := rest } = .next t) ∨
       ((∃ e, decode x = .error e) ∧ ∃ e, t = { s with inbox := rest, result := some (errorResult e) })) := by
  rw [act] at h
  simp only [hp] at h
  unfold accept at h
  split at h
  · cases h; exact .inl rfl
  · next x rest hi =>
    refine .inr ⟨x, rest, hi, ?_⟩
    split at h
    · next i hd => exact .inl ⟨i, hd, h⟩
    · next why hd =>
      refine .inr ⟨⟨_, hd⟩, ?_⟩
      unfold reject at h
      split at h
      · next e => cases h; exact ⟨e, rfl⟩
      · cases h

/-! ## A step in each phase: the environment's move, then the block's phase -/

theorem step_flush {s : State} (h : s.phase = .flush) (hc : s.conn ≠ .closed) :
    step s = .next (s.envMove.tsFlush.goTo .write) := act_flush (by simpa using h) (by simpa using hc)

theorem step_write {s : State} (h : s.phase = .write) (hc : s.conn ≠ .closed) : step s = .next s.envMove.writePhase :=
  act_write (by simpa using h) (by simpa using hc)

theorem step_read {s : State} (h : s.phase = .read) (hc : s.conn ≠ .closed) : step s = .next s.envMove.readPhase :=
  act_read (by simpa using h) (by simpa using hc)

theorem step_busy_closed {s : State} (h : s.phase ≠ .idle) (hc : s.conn = .closed) :
    step s = .refused .closedSession := act_busy_closed (by simpa using h) (by simpa using hc)

theorem State.envMove_commandFrame (s : State) : s.envMove.commandFrame = s.commandFrame := by simp [commandFrame]

/-- A run of one more step. -/
theorem run_next {k : Nat} {s t : State} (h : step s = .next t) :
    Host.Core.run core (k + 1) s = Host.Core.run core k t := by
  have h' : core.step s = .next t := h
  simp only [Host.Core.run, h']

end Sys2Proof.Machine
end

