-- ==== Sys2Proof/Tests/Slice0.lean ====
section
/-! SUPPORT. Tests: ill-formed terms, words decoded, one step each on small states with results taken from the spec's examples
and vectors (95_test_vectors.md), and a witness for the hypotheses of every statement that has some. -/

namespace Sys2Proof.Tests

open Sys2Proof.Machine

/-! ## Small states -/

/-- An open session, entry 5 on: the start state of 95_test_vectors.md section 3.4. -/
def opened : State := { State.reset with conn := .openOn 7, rss := [(5, .on)] }

/-- One transaction waiting at the port of `opened`. -/
def asked (x : Transaction) : State := { opened with inbox := [x] }

/-- Phase `FLUSH` with stale bytes in both buffers. -/
def inFlush (relay : Byte) : State :=
  { opened with
    phase := .flush, cur := ⟨relay, .turnOn, false⟩, rxBuf := [1#8, 2#8], txBuf := [3#8, 4#8], env := ⟨[], [], [], [1], [[]], 0⟩ }

/-- Phase `WRITE`, the environment's answer to the write given. -/
def inWrite (relay : Byte) (action : Action) (expect : Bool) (w : WriteAnswer) : State :=
  { opened with phase := .write, cur := ⟨relay, action, expect⟩, env := ⟨[], [w], [], [0], [[]], 0⟩ }

/-- Phase `READ`, the environment's answer to the read given. -/
def inRead (relay : Byte) (r : ReadAnswer) : State :=
  { opened with phase := .read, cur := ⟨relay, .queryStatus, true⟩, env := ⟨[], [], [r], [0], [[]], 0⟩ }

/-- What a vector of the spec shows of an outcome. -/
def view (o : Host.Outcome State Fault Refusal) : Option (Memory × ConnectionState × Phase × Option Result) :=
  match o with
  | .next t => some (t.rss, t.conn, t.phase, t.result)
  | .fault _ | .refused _ => none

/-- The frames handed to the TS. -/
def written (o : Host.Outcome State Fault Refusal) : List Frame :=
  match o with
  | .next t => t.calls.filterMap fun c => match c with
    | .write f => some f
    | .openPort _ _ _ | .close | .flush | .read _ => none
  | .fault _ | .refused _ => []

/-! ## Ill-formed terms -/

theorem test_illformed_command_addresses :
    ∀ a ∈ [0x00#8, 0xFF#8],
      ∀ i ∈ [Instr.cmdOff a, .cmdOn a, .cmdOffAck a, .cmdOnAck a, .cmdToggle a, .cmdQuery a], i.wellFormed = false := by decide
theorem test_illformed_unknown_status :
    ∀ c ∈ [0x00#8, 0x01#8, 0x02#8, 0x03#8], (Instr.rspUnknown 5#8 c).wellFormed = false := by decide
theorem test_wellformed_boundaries :
    ∀ i ∈ [Instr.cmdOff 0x01#8, .cmdQuery 0xFE#8, .rspOff 0x00#8, .rspOn 0xFF#8, .rspUnknown 0x00#8 0x04#8, .execute 0x00#8 .toggle false],
      i.wellFormed = true := by decide

/-! ## Decoding: words written out from R61, R64, R66, R74 -/

/-- Section 2.2, relay 5 and relay 95. -/
theorem test_decode_commands :
    decodeTableWord 32 0b10100000000001010000000010100101 = some (.cmdOff 0x05#8) ∧
    decodeTableWord 32 0b10100000000001010000000110100110 = some (.cmdOn 0x05#8) ∧
    decodeTableWord 32 0b10100000000001010000001010100111 = some (.cmdOffAck 0x05#8) ∧
    decodeTableWord 32 0b10100000000001010000001110101000 = some (.cmdOnAck 0x05#8) ∧
    decodeTableWord 32 0b10100000010111110000010000000011 = some (.cmdToggle 0x5F#8) ∧
    decodeTableWord 32 0b10100000111111100000010110100011 = some (.cmdQuery 0xFE#8) := by decide
/-- Section 3.1: the same bytes on the RX stream are responses (R78). -/
theorem test_decode_responses :
    decode (.frame .toBlock [0xA0#8, 0x05#8, 0x00#8, 0xA5#8]) = .ok (.rspOff 0x05#8) ∧
    decode (.frame .toBlock [0xA0#8, 0x05#8, 0x01#8, 0xA6#8]) = .ok (.rspOn 0x05#8) ∧
    decode (.frame .toBlock [0xA0#8, 0x05#8, 0x02#8, 0xA7#8]) = .ok (.rspOffAck 0x05#8) ∧
    decode (.frame .toBlock [0xA0#8, 0x05#8, 0x03#8, 0xA8#8]) = .ok (.rspOnAck 0x05#8) ∧
    decode (.frame .toBlock [0xA0#8, 0x05#8, 0x04#8, 0xA9#8]) = .ok (.rspUnknown 0x05#8 0x04#8) := by decide
/-- Section 3.1, the rejections, in their order. -/
theorem test_decode_rejects_frames :
    decode (.frame .toBlock [0xA0#8, 0x05#8, 0x01#8]) = .error (.badFrame .lengthError) ∧
    decode (.frame .toBlock [0xA1#8, 0x05#8, 0x01#8, 0xA6#8]) = .error (.badFrame .checksumError) ∧
    decode (.frame .toBlock [0xA1#8, 0x05#8, 0x01#8, 0xA7#8]) = .error (.badFrame .headerError) ∧
    decode (.frame .toDevice [0xA0#8, 0x00#8, 0x01#8, 0xA1#8]) = .error (.commandAddress 0x00#8) ∧
    decode (.frame .toDevice [0xA0#8, 0x01#8, 0x06#8, 0xA7#8]) = .error (.commandOpcode 0x06#8) := by decide
/-- R74: every assigned symbol, operands zero or empty. -/
theorem test_decode_operations :
    (List.range 17).map (decodeTableWord 8) =
      ([.encSelect .turnOff false, .encFrame 0 0, .encAction 0 .turnOff false, .decFrame [], .decMap 0, .rssGet 0,
        .rssSet 0 .unknown, .rssInvalidate 0, .currentState 0, .execute 0 .turnOff false, .connect 0, .disconnect,
        .tsOpen 0 0 0, .tsClose, .tsFlush, .tsWrite ⟨0, 0, 0, 0⟩, .tsRead 0] : List Instr).map some := by decide
theorem test_decode_unassigned_operations : ∀ w ∈ [0x11, 0x1F, 0x20, 0xFF], decodeTableWord 8 w = none := by decide

/-! ## ENC: section 2 -/

theorem test_encFrame_worked_example : view (exec (.encFrame 0x05#8 0x01#8) opened) =
    some ([(5, .on)], .openOn 7, .idle, some (.frame ⟨0xA0#8, 0x05#8, 0x01#8, 0xA6#8⟩)) := by decide
theorem test_encFrame_wraps_twice : view (exec (.encFrame 0xFE#8 0xFF#8) opened) =
    some ([(5, .on)], .openOn 7, .idle, some (.frame ⟨0xA0#8, 0xFE#8, 0xFF#8, 0x9D#8⟩)) := by decide
theorem test_encFrame_refuses_zero : view (exec (.encFrame 0x00#8 0x01#8) opened) =
    some ([(5, .on)], .openOn 7, .idle, some (.invalidAddress 0x00#8)) := by decide
theorem test_encAction_query_at_top : view (exec (.encAction 0xFE#8 .queryStatus false) opened) =
    some ([(5, .on)], .openOn 7, .idle, some (.frame ⟨0xA0#8, 0xFE#8, 0x05#8, 0xA3#8⟩)) := by decide
theorem test_encSelect_on_with_ack : view (exec (.encSelect .turnOn true) opened) =
    some ([(5, .on)], .openOn 7, .idle, some (.opcode 0x03#8)) := by decide
theorem test_commands_at_relay_96 :
    [Instr.cmdOff 96#8, .cmdOn 96#8, .cmdOffAck 96#8, .cmdOnAck 96#8, .cmdToggle 96#8, .cmdQuery 96#8].map
      (fun i => (view (exec i State.reset)).map fun v => v.2.2.2) =
    [0x00#8, 0x01#8, 0x02#8, 0x03#8, 0x04#8, 0x05#8].map (fun c => some (some (.frame ⟨0xA0#8, 0x60#8, c, c⟩))) := by decide

/-! ## DEC: section 3.1 -/

theorem test_decFrame_success : view (exec (.decFrame [0xA0#8, 0x5F#8, 0x01#8, 0x00#8]) State.reset) =
    some ([], .closed, .idle, some (.decoded 95#8 .on 0x01#8)) := by decide
theorem test_decFrame_both_wrong : view (exec (.decFrame [0xFF#8, 0xFF#8, 0xFF#8, 0xFF#8]) State.reset) =
    some ([], .closed, .idle, some .checksumError) := by decide
theorem test_decFrame_zeros : view (exec (.decFrame [0#8, 0#8, 0#8, 0#8]) State.reset) =
    some ([], .closed, .idle, some .headerError) := by decide
theorem test_decFrame_two_frames :
    view (exec (.decFrame [0xA0#8, 5#8, 1#8, 0xA6#8, 0xA0#8, 5#8, 1#8, 0xA6#8]) State.reset) =
    some ([], .closed, .idle, some .lengthError) := by decide
theorem test_decMap_off_ack : view (exec (.decMap 0x02#8) State.reset) =
    some ([], .closed, .idle, some (.mapped .off)) := by decide
theorem test_decMap_first_unknown : view (exec (.decMap 0x04#8) State.reset) =
    some ([], .closed, .idle, some (.mapped (.unknown 0x04#8))) := by decide
theorem test_responses_decode_in_idle :
    [Instr.rspOff 5#8, .rspOn 5#8, .rspOffAck 5#8, .rspOnAck 5#8, .rspUnknown 5#8 0xFF#8].map
      (fun i => (view (exec i State.reset)).map fun v => v.2.2.2) =
    [some (some (.decoded 5#8 .off 0#8)), some (some (.decoded 5#8 .on 1#8)), some (some (.decoded 5#8 .off 2#8)),
      some (some (.decoded 5#8 .on 3#8)), some (some (.decoded 5#8 (.unknown 0xFF#8) 0xFF#8))] := by decide

/-! ## RSS: section 3.3 -/

theorem test_rssSet_overwrites : view (exec (.rssSet 5#8 .off) opened) =
    some ([(5, .off)], .openOn 7, .idle, some .nothing) := by decide
theorem test_rssSet_neighbour_untouched : view (exec (.rssSet 4#8 .on) opened) =
    some ([(4, .on), (5, .on)], .openOn 7, .idle, some .nothing) := by decide
theorem test_rssInvalidate_clears : view (exec (.rssInvalidate 5#8) opened) =
    some ([], .openOn 7, .idle, some .nothing) := by decide
theorem test_rssGet_reads : view (exec (.rssGet 5#8) opened) =
    some ([(5, .on)], .openOn 7, .idle, some (.entry .on)) := by decide
theorem test_rssGet_unseen : view (exec (.rssGet 6#8) opened) =
    some ([(5, .on)], .openOn 7, .idle, some (.entry .unknown)) := by decide
theorem test_currentState_reads : view (exec (.currentState 5#8) opened) =
    some ([(5, .on)], .openOn 7, .idle, some (.entry .on)) := by decide

/-! ## SEQ: section 3.4 -/

theorem test_execute_address_before_connection : view (exec (.execute 255#8 .queryStatus true) State.reset) =
    some ([], .closed, .idle, some (.invalidAddress 255#8)) := by decide
theorem test_execute_accepts : view (exec (.execute 5#8 .turnOff false) opened) =
    some ([(5, .on)], .openOn 7, .flush, none) := by decide
theorem test_write_error : view (step (inWrite 5#8 .turnOff false (.error 2))) =
    some ([], .closed, .idle, some .communicationError) := by decide
theorem test_write_optimistic : view (step (inWrite 6#8 .turnOn false .ok)) =
    some ([(5, .on), (6, .on)], .openOn 7, .idle, some .sent) := by decide
theorem test_write_toggle_stale : view (step (inWrite 5#8 .toggle false .ok)) =
    some ([(5, .on)], .openOn 7, .idle, some .sent) := by decide
theorem test_write_frame : written (step (inWrite 5#8 .turnOff true .ok)) = [⟨0xA0#8, 5#8, 2#8, 0xA7#8⟩] := by decide
theorem test_write_query_awaits : view (step (inWrite 5#8 .queryStatus false .ok)) =
    some ([(5, .on)], .openOn 7, .read, none) := by decide
theorem test_read_error : view (step (inRead 5#8 .error)) = some ([], .closed, .idle, some .connectionLost) := by decide
theorem test_read_empty : view (step (inRead 5#8 (.arrived []))) = some ([], .openOn 7, .idle, some .timeout) := by decide
theorem test_read_short : view (step (inRead 5#8 (.arrived [0xA0#8, 5#8, 2#8]))) =
    some ([], .openOn 7, .idle, some .lengthError) := by decide
theorem test_read_mismatch : view (step (inRead 5#8 (.arrived [0xA0#8, 7#8, 2#8, 0xA9#8]))) =
    some ([(5, .on), (7, .off)], .openOn 7, .idle, some (.statusReceived 7#8 .off 2#8)) := by decide
theorem test_read_unknown_code : view (step (inRead 5#8 (.arrived [0xA0#8, 5#8, 9#8, 0xAE#8]))) =
    some ([], .openOn 7, .idle, some (.statusReceived 5#8 (.unknown 9#8) 9#8)) := by decide
theorem test_response_in_read : view (exec (.rspOn 0#8) (inRead 5#8 .error)) =
    some ([(0, .on), (5, .on)], .openOn 7, .idle, some (.statusReceived 0#8 .on 1#8)) := by decide
theorem test_flush_discards :
    (match step (inFlush 5#8) with | .next t => some (t.rxBuf, t.txBuf, t.line, t.phase) | .fault _ | .refused _ => none) =
      some ([], [], [3#8], .write) := by decide

/-- R211: bytes that come in while the block is idle wait in the input buffer, behind what waits there already. -/
theorem test_late_bytes_wait :
    (match step { opened with rxBuf := [1#8], txBuf := [3#8], env := ⟨[], [], [], [1], [[8#8, 9#8]], 0⟩ } with
      | .next t => some (t.rxBuf, t.txBuf, t.line, t.phase) | .fault _ | .refused _ => none) =
      some ([1#8, 8#8, 9#8], [], [3#8], .idle) := by decide
/-- R180: a read returns what came in since the flush, in order of arrival, before the call and during it. -/
theorem test_read_early_bytes :
    view (step { inRead 5#8 (.arrived [2#8, 0xA7#8]) with env := ⟨[], [], [.arrived [2#8, 0xA7#8]], [0], [[0xA0#8, 5#8]], 0⟩ }) =
    some ([(5, .off)], .openOn 7, .idle, some (.statusReceived 5#8 .off 2#8)) := by decide

/-! ## CONNECT, DISCONNECT, TS: Program 1 step 2, Program 4 steps 6 and 9 -/

theorem test_connect_ok : view (exec (.connect 9) { State.reset with env := ⟨[.ok [] []], [], [], [], [], 0⟩ }) =
    some ([], .openOn 9, .idle, some .ok) := by decide
theorem test_connect_error_after_close : view (exec (.connect 9) { opened with env := ⟨[.error 3], [], [], [0], [[]], 0⟩ }) =
    some ([(5, .on)], .closed, .idle, some (.openError 3)) := by decide
theorem test_disconnect : view (exec .disconnect { opened with env := ⟨[], [], [], [0], [[]], 0⟩ }) =
    some ([(5, .on)], .closed, .idle, some .nothing) := by decide
theorem test_tsOpen : view (exec (.tsOpen 9 9600 1) { State.reset with env := ⟨[.ok [] []], [], [], [], [], 0⟩ }) =
    some ([], .openOn 9, .idle, some .ok) := by decide
theorem test_tsClose_idempotent : view (exec .tsClose State.reset) = some ([], .closed, .idle, some .nothing) := by decide
theorem test_tsFlush : view (exec .tsFlush opened) = some ([(5, .on)], .openOn 7, .idle, some .nothing) := by decide
theorem test_tsWrite_error : view (exec (.tsWrite ⟨0xA0#8, 9#8, 1#8, 0xAA#8⟩) { opened with env := ⟨[], [.error 4], [], [0], [[]], 0⟩ }) =
    some ([(5, .on)], .closed, .idle, some .writeError) := by decide
theorem test_tsRead_takes_four :
    view (exec (.tsRead 1) { opened with rxBuf := [1#8], env := ⟨[], [], [.arrived [2#8, 3#8, 4#8, 5#8]], [0], [[]], 0⟩ }) =
    some ([(5, .on)], .openOn 7, .idle, some (.bytes [1#8, 2#8, 3#8, 4#8])) := by decide

/-! ## Fetching from reset -/

theorem test_fetch_select : view (step (State.reset.withFetchWord 8 0x00)) =
    some ([], .closed, .idle, some (.opcode 0x00#8)) := by decide
theorem test_fetch_frame : view (step (State.reset.withFetchWord 32 0xA00501A6)) =
    some ([], .closed, .idle, some (.frame ⟨0xA0#8, 5#8, 1#8, 0xA6#8⟩)) := by decide

/-! ## Witnesses: states and operands that meet the hypotheses of the statements -/

theorem opened_inv : Inv opened := ⟨by decide, fun h => absurd rfl h, fun h => absurd rfl h⟩
theorem inFlush_inv : Inv (inFlush 1#8) := ⟨by decide, fun _ => by decide, fun _ => by decide⟩
theorem inWrite_inv (w : WriteAnswer) : Inv (inWrite 254#8 .turnOn false w) :=
  ⟨show Memory.wf [(5, .on)] by decide, fun _ => rfl, fun _ => by simp [inWrite, opened]⟩
theorem inRead_inv (r : ReadAnswer) : Inv (inRead 5#8 r) :=
  ⟨show Memory.wf [(5, .on)] by decide, fun _ => rfl, fun _ => by simp [inRead, opened]⟩

theorem witness_StepKeepsTheInvariant : ∃ t, Inv (inRead 5#8 (.arrived [])) ∧ step (inRead 5#8 (.arrived [])) = .next t :=
  ⟨_, inRead_inv _, rfl⟩
theorem witness_StepWritesCommandFramesOnly : ∃ t, Inv (inWrite 254#8 .turnOn false .ok) ∧ HostOnly (inWrite 254#8 .turnOn false .ok) ∧
    CommandsOnly (inWrite 254#8 .turnOn false .ok) ∧ step (inWrite 254#8 .turnOn false .ok) = .next t :=
  ⟨_, inWrite_inv _, by decide, by simp [CommandsOnly, inWrite, opened, State.reset], rfl⟩
/-- The port may hold host operations: an accepted EXECUTE under the same hypotheses. -/
theorem witness_HostOnly_with_requests : HostOnly (asked (encode (.execute 5#8 .turnOn false))) ∧
    HostOnly (asked (encode (.connect 1))) ∧ HostOnly (asked (encode .disconnect)) ∧ HostOnly (asked (encode (.currentState 5#8))) := by
  decide
theorem witness_StepRunsTheDecodedTransaction :
    (asked (encode .disconnect)).phase = .idle ∧ (asked (encode .disconnect)).inbox = encode .disconnect :: [] ∧
    decode (encode .disconnect) = .ok .disconnect ∧ opened.phase = .idle ∧ opened.inbox = [] := by decide
theorem witness_MalformedResponseIsAnsweredByItsCheck :
    (asked (.frame .toBlock [1#8])).phase = .idle ∧ ([1#8] : ByteSeq).length ≠ 4 ∧ ([1#8, 2#8, 3#8, 4#8, 5#8] : ByteSeq).length ≠ 4 ∧
    0xA7#8 ≠ 0xA0#8 + 0x05#8 + 0x01#8 ∧ (0xA7#8 = 0xA1#8 + 0x05#8 + 0x01#8 ∧ 0xA1#8 ≠ 0xA0#8) := by decide
theorem witness_UnassignedEncodingsAreRefusedByName :
    0x11 ≤ (0x11#5).toNat ∧ 0x11 ≤ (0x1F#5).toNat ∧ ({ v := 0b01#2 } : Operands).v = 0b01#2 ∧
    ((0x00#8).toNat = 0 ∨ (0x00#8).toNat = 255) ∧ ((0xFF#8).toNat = 0 ∨ (0xFF#8).toNat = 255) ∧
    (1 ≤ (0x01#8).toNat ∧ (0xFE#8).toNat ≤ 254 ∧ 6 ≤ (0x06#8).toNat) := by decide
theorem witness_transactions_refused :
    ∀ x ∈ [Transaction.operation 0x11#5 {}, .operation 0x06#5 { v := 0b01#2 }, .frame .toDevice (Listing.frame 0xFF#8 0#8).bytes,
        .frame .toDevice (Listing.frame 0x01#8 0x06#8).bytes],
      (asked x).phase = .idle ∧ (asked x).inbox = x :: [] := by decide
theorem witness_DecodeInvertsEncode : (Instr.cmdQuery 254#8).wellFormed = true ∧ (Instr.rspUnknown 255#8 4#8).wellFormed = true ∧
    decode (.frame .toDevice [0xA0#8, 0x01#8, 0x00#8, 0xA1#8]) = .ok (.cmdOff 0x01#8) ∧
    decode (.frame .toBlock [0xA0#8, 0xFF#8, 0x00#8, 0x9F#8]) = .ok (.rspOff 0xFF#8) := by decide
/-- The address clauses of ENC's and EXECUTE's statements: both ranges, at their ends; no byte falls under both. -/
theorem witness_address_clauses : (1 ≤ (1#8).toNat ∧ (1#8).toNat ≤ 254) ∧ (1 ≤ (254#8).toNat ∧ (254#8).toNat ≤ 254) ∧
    ((0#8).toNat = 0 ∨ (0#8).toNat = 255) ∧ ((255#8).toNat = 0 ∨ (255#8).toNat = 255) ∧
    ∀ a : Byte, ¬((1 ≤ a.toNat ∧ a.toNat ≤ 254) ∧ (a.toNat = 0 ∨ a.toNat = 255)) :=
  ⟨by decide, by decide, by decide, by decide, fun a => by omega⟩
theorem witness_PseudoOperationsEqualTheirExpansions : opened.phase = .idle ∧
    ∃ t, exec (.encSelect .toggle true) opened = .next t ∧ t.result = some (.opcode 0x04#8) := ⟨rfl, _, rfl, rfl⟩
theorem witness_DecFrameChecksInOrder :
    ([] : ByteSeq).length ≠ 4 ∧ (0x00#8).toNat ≠ ((0xA0#8).toNat + (0x5F#8).toNat + (0x00#8).toNat) % 256 ∧
    ((0x00#8).toNat = ((0x00#8).toNat + (0x00#8).toNat + (0x00#8).toNat) % 256 ∧ 0x00#8 ≠ 0xA0#8) ∧
    (0x00#8).toNat = ((0xA0#8).toNat + (0x5F#8).toNat + (0x01#8).toNat) % 256 := by decide
theorem witness_SingleByteErrorsAreCaught : 3 < 4 ∧ (Listing.frame 5#8 1#8).bytes[3]? ≠ some 0xA7#8 ∧
    (Listing.frame 5#8 1#8).bytes[0]? ≠ some 0xA1#8 := by decide
theorem witness_DecMapIsTheStatusMap : ((0#8).toNat = 0 ∨ (0#8).toNat = 2) ∧ ((2#8).toNat = 0 ∨ (2#8).toNat = 2) ∧
    ((1#8).toNat = 1 ∨ (1#8).toNat = 3) ∧ ((3#8).toNat = 1 ∨ (3#8).toNat = 3) ∧ 4 ≤ (4#8).toNat ∧ 4 ≤ (255#8).toNat := by decide
theorem witness_ResponseClassesDecodeToTheirStates : opened.phase ≠ .read ∧ (inFlush 1#8).phase ≠ .read ∧
    (inWrite 1#8 .toggle true .ok).phase ≠ .read ∧ 4 ≤ (4#8).toNat := by decide
theorem witness_ResponseClassesUpdateTheTableInRead : (inRead 5#8 .error).phase = .read ∧
    (Instr.rspOff 255#8 = .rspOff 255#8 ∧ 0x00#8 = 0x00#8) ∧ (Instr.rspUnknown 0#8 4#8 = .rspUnknown 0#8 4#8 ∧ 4 ≤ (4#8).toNat) := by decide
theorem witness_LateBytesWaitAndAreThrownAway :
    (∀ s ∈ [({ opened with env := ⟨[], [], [], [], [[8#8], []], 0⟩ } : State)], s.phase = .idle ∧ s.inbox = [] ∧ s.conn ≠ .closed ∧
      s.env.arrivals = [8#8] :: [[]]) ∧
    ∀ r ∈ [1#8, 254#8], (asked (encode (.execute r .toggle true))).phase = .idle ∧
      (asked (encode (.execute r .toggle true))).inbox = encode (.execute r .toggle true) :: [] ∧ opened.conn ≠ .closed ∧
      1 ≤ r.toNat ∧ r.toNat ≤ 254 := by decide
theorem witness_ReadPhaseRunsTheReceivedResponse :
    (inRead 5#8 (.arrived [0xA0#8, 5#8, 1#8, 0xA6#8])).phase = .read ∧
    (inRead 5#8 (.arrived [0xA0#8, 5#8, 1#8, 0xA6#8])).conn ≠ .closed ∧
    (∃ s1, (inRead 5#8 (.arrived [0xA0#8, 5#8, 1#8, 0xA6#8])).envMove.tsRead Config.readTimeout = (some [0xA0#8, 5#8, 1#8, 0xA6#8], s1)) ∧
    decode (.frame .toBlock [0xA0#8, 5#8, 1#8, 0xA6#8]) = .ok (.rspOn 5#8) := ⟨rfl, by decide, ⟨_, rfl⟩, by decide⟩
theorem witness_PureUnitsNeitherReadNorWriteState : ∃ a e, Instr.encSelect .toggle true = .encSelect a e := ⟨_, _, rfl⟩
theorem witness_LastWriteWinsInAnyOrder : opened.rss.wf ∧ (5#8 = 5#8) ∧ (5#8 ≠ 6#8) := by decide
theorem witness_CurrentStateReadsInIdle : opened.phase = .idle := rfl
theorem witness_HostOperationsWaitWhileBusy : (inFlush 1#8).phase ≠ .idle ∧ isHostOperation (.connect 1) = true ∧
    ∃ t, step (inFlush 1#8) = .next t := ⟨by decide, rfl, _, rfl⟩
theorem witness_StaleInputIsNeverSeenAgain : (inFlush 1#8).phase = .flush := rfl
theorem witness_ExecuteRefusesABadAddress : opened.phase = .idle ∧ State.reset.phase = .idle ∧
    ((0#8).toNat = 0 ∨ (0#8).toNat = 255) ∧ ((255#8).toNat = 0 ∨ (255#8).toNat = 255) := by decide
theorem witness_ExecuteNeedsAConnection : State.reset.phase = .idle ∧ 1 ≤ (254#8).toNat ∧ (254#8).toNat ≤ 254 ∧
    State.reset.conn = .closed := by decide
theorem witness_ExecuteLatchesItsOperands : opened.phase = .idle ∧ 1 ≤ (1#8).toNat ∧ (1#8).toNat ≤ 254 ∧
    opened.conn ≠ .closed := by decide
theorem witness_FlushPhaseEmptiesBothBuffers : (inFlush 1#8).phase = .flush ∧ (inFlush 1#8).conn ≠ .closed := by decide
theorem witness_FailedWriteLosesTheConnection : (inWrite 254#8 .toggle true (.error 4)).phase = .write ∧
    (inWrite 254#8 .toggle true (.error 4)).conn ≠ .closed ∧ isRelayAddress (inWrite 254#8 .toggle true (.error 4)).cur.relay = true ∧
    (inWrite 254#8 .toggle true (.error 4)).envMove.env.takeWrite.1 = .error 4 := by decide
/-- The statements on a good write, for each clause: on, off, toggle with no response expected; a response awaited. -/
theorem witness_good_writes :
    ∀ s ∈ [inWrite 1#8 .turnOn false .ok, inWrite 254#8 .turnOff false .ok, inWrite 5#8 .toggle false .ok,
        inWrite 5#8 .toggle true .ok, inWrite 5#8 .queryStatus false .ok],
      s.phase = .write ∧ s.conn ≠ .closed ∧ isRelayAddress s.cur.relay = true ∧ s.envMove.env.takeWrite.1 = .ok := by decide
theorem witness_ReadErrorLosesTheConnection : (inRead 5#8 .error).phase = .read ∧ (inRead 5#8 .error).conn ≠ .closed ∧
    (inRead 5#8 .error).envMove.env.takeRead.1 = .error := by decide
/-- Every clause of the statement on received bytes: none, one, three, four bytes of each kind, and five. -/
theorem witness_ReadBytesAreClassified :
    (∀ bs ∈ [[], [1#8], [1#8, 2#8, 3#8], [0xA0#8, 5#8, 1#8, 0xA7#8], [0xA1#8, 5#8, 1#8, 0xA7#8], [0xA0#8, 0#8, 1#8, 0xA1#8],
        [0xA0#8, 0#8, 1#8, 0xA1#8, 7#8]],
      (inRead 5#8 (.arrived bs)).phase = .read ∧ (inRead 5#8 (.arrived bs)).conn ≠ .closed ∧
      (inRead 5#8 (.arrived bs)).envMove.env.takeRead.1 = .arrived bs) ∧
    0xA7#8 ≠ 0xA0#8 + 5#8 + 1#8 ∧ (0xA7#8 = 0xA1#8 + 5#8 + 1#8 ∧ 0xA1#8 ≠ 0xA0#8) ∧ 0xA1#8 = 0xA0#8 + 0#8 + 1#8 := by decide
theorem witness_busy_invariants : (Inv (inFlush 1#8) ∧ (inFlush 1#8).phase ≠ .idle) ∧
    (Inv (inWrite 254#8 .turnOn false .ok) ∧ (inWrite 254#8 .turnOn false .ok).phase ≠ .idle) ∧
    (Inv (inRead 5#8 .error) ∧ (inRead 5#8 .error).phase ≠ .idle) :=
  ⟨⟨inFlush_inv, by decide⟩, ⟨inWrite_inv _, by decide⟩, ⟨inRead_inv _, by decide⟩⟩
/-- Listed answers for a whole exchange, and none listed: both meet the hypotheses of the two statements. -/
theorem witness_ExecuteFollowsItsListing :
    (asked (encode (.execute 5#8 .turnOn true))).phase = .idle ∧
    (asked (encode (.execute 5#8 .turnOn true))).inbox = encode (.execute 5#8 .turnOn true) :: [] ∧
    ({ asked (encode (.execute 5#8 .turnOn true)) with env := ⟨[], [.ok], [.error], [], [], 0⟩ } : State).env.writes = .ok :: [] ∧
    ({ asked (encode (.execute 5#8 .turnOn true)) with env := ⟨[], [.ok], [.error], [], [], 0⟩ } : State).env.reads = .error :: [] := by decide
theorem witness_ConnectClosesThenOpens : opened.phase = .idle ∧
    ({ opened with env := ⟨[.ok [1#8] []], [], [], [], [], 0⟩ } : State).env.opens = .ok [1#8] [] :: [] ∧
    ({ opened with env := ⟨[.error 3], [], [], [], [], 0⟩ } : State).env.opens = .error 3 :: [] := by decide
theorem witness_session_clauses : State.reset.conn = .closed ∧ opened.conn ≠ .closed := by decide
theorem witness_TableChangesOnlyByAnExchange : ∃ t, HostOnly (inRead 5#8 (.arrived [0xA0#8, 255#8, 1#8, 0xA0#8])) ∧
    Inv (inRead 5#8 (.arrived [0xA0#8, 255#8, 1#8, 0xA0#8])) ∧
    step (inRead 5#8 (.arrived [0xA0#8, 255#8, 1#8, 0xA0#8])) = .next t ∧
    t.rss.read 255#8 ≠ (inRead 5#8 (.arrived [0xA0#8, 255#8, 1#8, 0xA0#8])).rss.read 255#8 :=
  ⟨_, by decide, inRead_inv _, rfl, by decide⟩
theorem witness_ConnectionChangesOnlyInsideTsCalls : ∃ t, step (inRead 5#8 .error) = .next t ∧ t.conn ≠ (inRead 5#8 .error).conn :=
  ⟨_, rfl, by decide⟩

end Sys2Proof.Tests
end

section
/-! PROOFS. ENC and DEC as functions of their operands (R4): the one result each computes, and that computing it writes
nothing else. -/

namespace Sys2Proof.Machine

/-- The result value of `ENC.FRAME`, said without a state: the frame (R87), or the refused address (R88). -/
def frameResult (relay op : Byte) : Result :=
  if isRelayAddress relay then .frame (mkFrame relay op) else .invalidAddress relay

theorem State.returnFrame_eq (s : State) (relay op : Byte) : s.returnFrame relay op = s.ret (frameResult relay op) := by
  rw [returnFrame, frameOf_eq, frameResult]
  by_cases h : isRelayAddress relay = true
  · simp only [h, if_true]
  · simp only [h, if_false, Bool.false_eq_true]; rfl

theorem exec_encFrame (relay op : Byte) (s : State) :
    exec (.encFrame relay op) s = .next (s.ret (frameResult relay op)) :=
  congrArg Host.Outcome.next (s.returnFrame_eq relay op)

theorem exec_encAction (relay : Byte) (action : Action) (expect : Bool) (s : State) :
    exec (.encAction relay action expect) s = .next (s.ret (frameResult relay (selectOp action expect))) :=
  congrArg Host.Outcome.next (s.returnFrame_eq relay _)

/-- Each command is `ENC.FRAME` with an opcode of its own (R76, R81 to R86). -/
theorem exec_command_eq_encFrame {i : Instr} {relay : Byte}
    (h : i ∈ [Instr.cmdOff relay, .cmdOn relay, .cmdOffAck relay, .cmdOnAck relay, .cmdToggle relay, .cmdQuery relay]) :
    ∃ op : Byte, ∀ s : State, exec i s = exec (.encFrame relay op) s := by
  simp only [List.mem_cons, List.not_mem_nil, or_false] at h
  rcases h with rfl | rfl | rfl | rfl | rfl | rfl
  · exact ⟨0x00#8, fun _ => rfl⟩
  · exact ⟨0x01#8, fun _ => rfl⟩
  · exact ⟨0x02#8, fun _ => rfl⟩
  · exact ⟨0x03#8, fun _ => rfl⟩
  · exact ⟨0x04#8, fun _ => rfl⟩
  · exact ⟨0x05#8, fun _ => rfl⟩

/-- Settles O25: the result of each instruction is named from its operands before any state is given. -/
theorem pureUnitsNeitherReadNorWriteState : Obligations.PureUnitsNeitherReadNorWriteState := by
  unfold Obligations.PureUnitsNeitherReadNorWriteState
  rintro i (⟨a, e, rfl⟩ | ⟨r, o, rfl⟩ | ⟨r, a, e, rfl⟩ | ⟨b, rfl⟩ | ⟨c, rfl⟩ | ⟨r, hcmd⟩)
  · exact ⟨.opcode (selectOp a e), fun _ => rfl⟩
  · exact ⟨frameResult r o, exec_encFrame r o⟩
  · exact ⟨frameResult r (selectOp a e), exec_encAction r a e⟩
  · exact ⟨decodeResult b, fun _ => rfl⟩
  · exact ⟨.mapped (stateOf c), fun _ => rfl⟩
  · obtain ⟨op, hop⟩ := exec_command_eq_encFrame hcmd
    exact ⟨frameResult r op, fun s => (hop s).trans (exec_encFrame r op s)⟩

end Sys2Proof.Machine
end

section
/-! PROOFS. The invariant of the state: it holds at reset (R32), every step keeps it (R33), and under it a busy phase always
steps. A step is inverted once for `IDLE` and once for the busy phases; the statements read off those two lemmas. -/

namespace Sys2Proof.Machine

/-! ## What a phase of an exchange can leave -/

/-- The optimistic update writes the commanded entry or nothing (R138, R139). -/
theorem State.optimistic_cases (s : State) : s.optimistic = s ∨ ∃ v, s.optimistic = s.rssWrite s.cur.relay v := by
  unfold optimistic
  cases s.cur.action with
  | turnOn => exact .inr ⟨_, rfl⟩
  | turnOff => exact .inr ⟨_, rfl⟩
  | toggle => exact .inl rfl
  | queryStatus => exact .inl rfl

/-- Without a relay address phase `WRITE` calls nothing: the encode failure ends the exchange (log 17). -/
theorem State.writePhase_badAddress {s : State} (hr : isRelayAddress s.cur.relay ≠ true) :
    s.writePhase = s.finish (.invalidAddress s.cur.relay) := by
  simp only [writePhase, frameOf_eq, hr, if_false, Bool.false_eq_true]

/-- Phase `WRITE` goes on to `READ` with everything SEQ holds as it was, or ends the exchange with at most the commanded entry
written. -/
theorem State.writePhase_cases (s : State) :
    (s.writePhase.phase = .read ∧ s.writePhase.rss = s.rss ∧ s.writePhase.cur = s.cur ∧ s.writePhase.conn = s.conn) ∨
    (s.writePhase.phase = .idle ∧
      (s.writePhase.rss = s.rss ∨ ∃ v, s.writePhase.rss = s.rss.write s.cur.relay v)) := by
  by_cases hr : isRelayAddress s.cur.relay = true
  · cases hw : s.env.takeWrite.1 with
    | error n =>
      obtain ⟨s1, he, -, hrss, hcur, -⟩ := s.writePhase_error hr hw
      obtain ⟨-, hlost, hidle, -⟩ := s1.lose_facts .communicationError
      exact .inr ⟨by rw [he, hidle], .inr ⟨.unknown, by rw [he, hlost, hrss, hcur]⟩⟩
    | ok =>
      obtain ⟨s1, he, hconn, hrss, hcur, -⟩ := s.writePhase_ok hr hw
      rw [he]
      split
      · exact .inl ⟨rfl, hrss, hcur, hconn⟩
      · rcases s1.optimistic_cases with ho | ⟨v, ho⟩
        · exact .inr ⟨rfl, .inl (by rw [finish_rss, ho, hrss])⟩
        · exact .inr ⟨rfl, .inr ⟨v, by rw [finish_rss, ho, rssWrite_rss, hrss, hcur]⟩⟩
  · rw [State.writePhase_badAddress hr]
    exact .inr ⟨rfl, .inl rfl⟩

/-- Phase `READ` ends the exchange: the commanded entry is invalidated (R142 to R144), or the entry of the address found in a
valid response is written and the result names it (R145, R146). -/
theorem State.readPhase_cases (s : State) : s.readPhase.phase = .idle ∧
    (s.readPhase.rss = s.rss.write s.cur.relay .unknown ∨
      ∃ a st c, s.readPhase.rss = s.rss.write a (narrow st) ∧ s.readPhase.result = some (.statusReceived a st c)) := by
  cases hw : s.env.takeRead.1 with
  | error =>
    obtain ⟨s1, he, -, hrss, hcur, -⟩ := s.readPhase_error hw
    obtain ⟨-, hlost, hidle, -⟩ := s1.lose_facts .connectionLost
    exact ⟨by rw [he, hidle], .inl (by rw [he, hlost, hrss, hcur])⟩
  | arrived bs =>
    obtain ⟨s1, he, hrss, hcur, -⟩ := s.readPhase_arrived hw
    rw [he, ← hrss, ← hcur]
    split
    · exact ⟨rfl, .inl rfl⟩
    · split
      · exact ⟨rfl, .inl rfl⟩
      · exact ⟨rfl, .inr ⟨_, _, _, rfl, rfl⟩⟩

/-! ## What a step can leave -/

/-- A step in a busy phase starts from an open session. It goes on with table, latches and session as they were, or ends the
exchange with at most one entry written: the commanded one, or in phase `READ` the one the result names. -/
theorem step_busy_cases {s t : State} (hp : s.phase ≠ .idle) (h : step s = .next t) :
    s.conn ≠ .closed ∧
    ((t.rss = s.rss ∧ t.cur = s.cur ∧ t.conn = s.conn) ∨
     (t.phase = .idle ∧
      (t.rss = s.rss ∨ (∃ v, t.rss = s.rss.write s.cur.relay v) ∨
       (s.phase = .read ∧ ∃ a st c, t.rss = s.rss.write a (narrow st) ∧ t.result = some (.statusReceived a st c))))) := by
  have hc : s.conn ≠ .closed := fun hc => by rw [step_busy_closed hp hc] at h; cases h
  refine ⟨hc, ?_⟩
  cases hs : s.phase with
  | idle => exact absurd hs hp
  | flush =>
    rw [step_flush hs hc] at h
    cases h
    exact .inl ⟨s.envMove_rss, s.envMove_cur, s.envMove_conn⟩
  | write =>
    rw [step_write hs hc] at h
    cases h
    have key := s.envMove.writePhase_cases
    simp only [State.envMove_rss, State.envMove_cur, State.envMove_conn] at key
    exact key.imp (fun ⟨_, hkeep⟩ => hkeep) (fun ⟨hidle, hrss⟩ => ⟨hidle, hrss.imp id .inl⟩)
  | read =>
    rw [step_read hs hc] at h
    cases h
    have key := s.envMove.readPhase_cases
    simp only [State.envMove_rss, State.envMove_cur] at key
    exact .inr (key.imp id fun hrss => .inr (hrss.imp (fun hinv => ⟨.unknown, hinv⟩) fun hans => ⟨rfl, hans⟩))

/-- A step in phase `IDLE` stays there and writes at most one entry, or it accepts an `EXECUTE` of a relay address on an open
session (R132 to R134). -/
theorem step_idle_cases {s t : State} (hp : s.phase = .idle) (h : step s = .next t) :
    (t.phase = .idle ∧ (t.rss = s.rss ∨ ∃ a v, t.rss = s.rss.write a v)) ∨
    (t.rss = s.rss ∧ isRelayAddress t.cur.relay = true ∧ t.conn ≠ .closed) := by
  have hp' : s.envMove.phase = .idle := s.envMove_phase.trans hp
  rcases act_idle_cases hp' h with rfl | ⟨x, rest, -, ⟨i, -, hx⟩ | ⟨-, e, rfl⟩⟩
  · exact .inl ⟨hp', .inl s.envMove_rss⟩
  · have key := exec_idle_cases i { s.envMove with inbox := rest } t hp' hx
    simp only [State.envMove_rss] at key
    exact key.imp id fun ⟨_, hrss, hrelay, hopen, hconn⟩ => ⟨hrss, hrelay, hconn ▸ hopen⟩
  · exact .inl ⟨hp', .inl s.envMove_rss⟩

/-! ## The host's operations and the table -/

/-- A host operation given to the block while an exchange is in progress waits (R52, R131). -/
theorem exec_hostOperation_busy {i : Instr} {s : State} (hi : isHostOperation i = true) (hp : s.phase ≠ .idle) :
    exec i s = .next (s.hold i) := by
  cases hs : s.phase with
  | idle => exact absurd hs hp
  | flush | write | read =>
    cases i with
    | execute relay action expect => simp only [exec, execExecute, hs]
    | connect port => simp only [exec, execConnect, hs]
    | disconnect => simp only [exec, execDisconnect, hs]
    | currentState a => simp only [exec, execCurrentState, hs]
    | _ => cases hi

/-- No host operation writes the table itself: `EXECUTE` only starts its exchange (R124). -/
theorem exec_hostOperation_rss {i : Instr} {s t : State} (hi : isHostOperation i = true) (h : exec i s = .next t) :
    t.rss = s.rss := by
  by_cases hp : s.phase = .idle
  · cases i with
    | execute relay action expect =>
      simp only [exec, execExecute, hp] at h
      split at h
      · split at h <;> cases h <;> rfl
      · cases h; rfl
    | connect port =>
      simp only [exec, execConnect, hp] at h
      cases h
      exact (s.connect_keeps port).1
    | disconnect =>
      simp only [exec, execDisconnect, hp] at h
      cases h; rfl
    | currentState a =>
      simp only [exec, execCurrentState, hp] at h
      cases h; rfl
    | _ => cases hi
  · rw [exec_hostOperation_busy hi hp] at h
    cases h; rfl

/-- A host request decodes to a host operation. -/
theorem isHostOperation_of_decode {x : Transaction} {i : Instr} (hx : isHostRequest x = true) (hd : decode x = .ok i) :
    isHostOperation i = true := by
  rwa [isHostRequest, hd] at hx

/-- While only host operations wait at the port, a step in phase `IDLE` leaves the table alone (R124). -/
theorem step_idle_rss_of_hostOnly {s t : State} (hp : s.phase = .idle) (hhost : HostOnly s) (h : step s = .next t) :
    t.rss = s.rss := by
  rcases act_idle_cases (s.envMove_phase.trans hp) h with rfl | ⟨x, rest, hin, ⟨i, hd, hx⟩ | ⟨-, e, rfl⟩⟩
  · exact s.envMove_rss
  · have hmem : x ∈ s.inbox := by rw [← s.envMove_inbox, hin]; exact List.mem_cons_self
    exact (exec_hostOperation_rss (isHostOperation_of_decode (hhost x hmem) hd) hx).trans s.envMove_rss
  · exact s.envMove_rss

/-- A write changes no entry but its own. -/
theorem Memory.eq_of_read_write_ne {m : Memory} {a b : Byte} {v : RelayState} (h : (m.write b v).read a ≠ m.read a) :
    a = b := by
  by_contra hne
  exact h (Memory.read_write_ne m v hne)

/-! ## The invariant -/

/-- In phase `IDLE` the invariant is about the table only. -/
theorem Inv.of_idle {s : State} (hp : s.phase = .idle) (ht : s.rss.wf) : Inv s :=
  ⟨ht, fun h => absurd hp h, fun h => absurd hp h⟩

/-- Settles O3: an exchange starts with a checked address on an open session, keeps both while it goes on, and every change of
the table is a write. -/
theorem stepKeepsTheInvariant : Obligations.StepKeepsTheInvariant := by
  intro s t hinv h
  have hwf (a : Byte) (v : RelayState) (hw : t.rss = s.rss.write a v) : t.rss.wf :=
    hw ▸ Memory.write_wf hinv.table a v
  by_cases hp : s.phase = .idle
  · rcases step_idle_cases hp h with ⟨hidle, hrss | ⟨a, v, hw⟩⟩ | ⟨hrss, hrelay, hopen⟩
    · exact .of_idle hidle (hrss ▸ hinv.table)
    · exact .of_idle hidle (hwf a v hw)
    · exact ⟨hrss ▸ hinv.table, fun _ => hrelay, fun _ => hopen⟩
  · obtain ⟨hopen, ⟨hrss, hcur, hconn⟩ | ⟨hidle, hrss | ⟨v, hw⟩ | ⟨-, a, st, c, hw, -⟩⟩⟩ := step_busy_cases hp h
    · exact ⟨hrss ▸ hinv.table, fun _ => hcur ▸ hinv.relay hp, fun _ => hconn ▸ hopen⟩
    · exact .of_idle hidle (hrss ▸ hinv.table)
    · exact .of_idle hidle (hwf _ v hw)
    · exact .of_idle hidle (hwf a _ hw)

/-- Settles O44: the one refusal of a busy phase is a closed session, which the invariant excludes. -/
theorem busyPhasesAlwaysStep : Obligations.BusyPhasesAlwaysStep := by
  intro s hinv hp
  have hc : s.conn ≠ .closed := hinv.conn hp
  cases hs : s.phase with
  | idle => exact absurd hs hp
  | flush => exact ⟨_, step_flush hs hc⟩
  | write => exact ⟨_, step_write hs hc⟩
  | read => exact ⟨_, step_read hs hc⟩

/-- Settles O56: the commanded entry is that of a relay address, so a write to entry 0 or 255 is the one a response names. -/
theorem extremeEntriesNeedAResponse : Obligations.ExtremeEntriesNeedAResponse := by
  intro s t a hinv hhost h hext hne
  have hp : s.phase ≠ .idle := fun hp => hne (by rw [step_idle_rss_of_hostOnly hp hhost h])
  have hrelay : 1 ≤ s.cur.relay.toNat ∧ s.cur.relay.toNat ≤ 254 := of_decide_eq_true (hinv.relay hp)
  obtain ⟨-, ⟨hrss, -⟩ | ⟨-, hrss | ⟨v, hw⟩ | ⟨hread, b, st, c, hw, hres⟩⟩⟩ := step_busy_cases hp h
  · exact absurd (by rw [hrss]) hne
  · exact absurd (by rw [hrss]) hne
  · have ha : a = s.cur.relay := Memory.eq_of_read_write_ne (hw ▸ hne)
    rw [ha] at hext
    omega
  · have ha : a = b := Memory.eq_of_read_write_ne (hw ▸ hne)
    exact ⟨hread, st, c, ha ▸ hres⟩

/-- Settles O1: no entry is listed at reset, and an entry not listed reads `Unknown`. -/
theorem resetHoldsTheStatedValues : Obligations.ResetHoldsTheStatedValues :=
  ⟨fun _ => rfl, rfl, rfl⟩

/-- Settles O2: reset is in phase `IDLE`, and the empty table is canonical. -/
theorem resetMeetsTheInvariant : Obligations.ResetMeetsTheInvariant :=
  .of_idle rfl ⟨.nil, fun _ hc => absurd hc List.not_mem_nil⟩

end Sys2Proof.Machine
end

section
/-! PROOFS. The record of TS calls and the port: what each phase of an exchange, and each host operation, adds to the first and
leaves of the second (R42, R52, R131). -/

namespace Sys2Proof.Machine

/-- From `s` to `t` the port is left alone, the record of TS calls grows, and every frame newly handed to the TS is a command
frame (R42). -/
structure HandsOverCommands (s t : State) : Prop where
  inbox : t.inbox = s.inbox
  calls : ∃ cs, t.calls = s.calls ++ cs ∧ ∀ f, TsCall.write f ∈ cs → IsCommandFrame f

theorem HandsOverCommands.of_calls_eq {s t : State} (hin : t.inbox = s.inbox) (hcalls : t.calls = s.calls) :
    HandsOverCommands s t := ⟨hin, [], by simp [hcalls], by simp⟩

theorem HandsOverCommands.commandsOnly {s t : State} (h : HandsOverCommands s t) (hs : CommandsOnly s) :
    CommandsOnly t := by
  obtain ⟨cs, hcalls, hnew⟩ := h.calls
  intro f hf
  rw [hcalls] at hf
  exact (List.mem_append.1 hf).elim (hs f) (hnew f)

/-! ## The phases of an exchange -/

@[simp] theorem State.optimistic_calls (s : State) : s.optimistic.calls = s.calls := by
  rcases s.optimistic_cases with h | ⟨v, h⟩ <;> rw [h]
  rfl

@[simp] theorem State.optimistic_inbox (s : State) : s.optimistic.inbox = s.inbox := by
  rcases s.optimistic_cases with h | ⟨v, h⟩ <;> rw [h]
  rfl

theorem State.isCommandFrame_commandFrame {s : State} (hr : isRelayAddress s.cur.relay = true) :
    IsCommandFrame s.commandFrame := isCommandFrame_mkFrame hr (selectOp_le _ _)

/-- Phase `WRITE` hands over the frame of the latched operands, or for a bad address nothing (R136, log 17). -/
theorem State.writePhase_handsOverCommands (s : State) : HandsOverCommands s s.writePhase := by
  by_cases hr : isRelayAddress s.cur.relay = true
  · have hf := State.isCommandFrame_commandFrame hr
    cases hw : s.env.takeWrite.1 with
    | error n =>
      obtain ⟨s1, he, -, -, -, -, hin, hcalls, -⟩ := State.writePhase_error hr hw
      exact ⟨by rw [he]; exact hin, [.write s.commandFrame, .close], by simp [he, lose_facts, hcalls], by simpa using hf⟩
    | ok =>
      obtain ⟨s1, he, -, -, -, -, -, hin, hcalls, -⟩ := State.writePhase_ok hr hw
      rw [he]
      split
      · exact ⟨hin, _, hcalls, by simpa using hf⟩
      · exact ⟨by simpa using hin, _, by simpa using hcalls, by simpa using hf⟩
  · rw [State.writePhase_badAddress hr]
    exact .of_calls_eq rfl rfl

/-- Phase `READ` hands over nothing (R141 to R146). -/
theorem State.readPhase_handsOverCommands (s : State) : HandsOverCommands s s.readPhase := by
  cases hw : s.env.takeRead.1 with
  | error =>
    obtain ⟨s1, he, -, -, -, -, hin, hcalls, -⟩ := State.readPhase_error hw
    exact ⟨by rw [he]; exact hin, [.read Config.readTimeout, .close], by simp [he, lose_facts, hcalls], by simp⟩
  | arrived bs =>
    obtain ⟨s1, he, -, -, -, hin, hcalls, -⟩ := State.readPhase_arrived hw
    have hend : s.readPhase.inbox = s1.inbox ∧ s.readPhase.calls = s1.calls := by
      rw [he]
      split
      · exact ⟨rfl, rfl⟩
      · split <;> exact ⟨rfl, rfl⟩
    exact ⟨hend.1.trans hin, _, hend.2.trans hcalls, by simp⟩

theorem HandsOverCommands.of_envMove {s t : State} (h : HandsOverCommands s.envMove t) : HandsOverCommands s t :=
  ⟨h.inbox.trans s.envMove_inbox, by simpa using h.calls⟩

theorem step_busy_handsOverCommands {s t : State} (hp : s.phase ≠ .idle) (h : step s = .next t) :
    HandsOverCommands s t := by
  obtain ⟨hc, -⟩ := step_busy_cases hp h
  refine .of_envMove ?_
  cases hs : s.phase with
  | idle => exact absurd hs hp
  | flush =>
    rw [step_flush hs hc] at h
    cases h
    exact ⟨rfl, [.flush], rfl, by simp⟩
  | write =>
    rw [step_write hs hc] at h
    cases h
    exact s.envMove.writePhase_handsOverCommands
  | read =>
    rw [step_read hs hc] at h
    cases h
    exact s.envMove.readPhase_handsOverCommands

/-! ## The host's operations -/

/-- The TS calls of `CONNECT`: an open session is closed, then one is opened (R148). -/
theorem State.connect_calls (s : State) (port : PortId) : (s.connect port).calls =
    s.calls ++ (if s.conn = .closed then [] else [.close]) ++ [.openPort port Config.baud Config.readTimeout] := by
  cases hc : s.conn with
  | closed =>
    rcases s.tsOpen_cases port Config.baud Config.readTimeout with ⟨u, v, -, he⟩ | ⟨m, -, he⟩ <;>
      simp [connect, hc, he]
  | openOn p =>
    rcases s.tsClose.tsOpen_cases port Config.baud Config.readTimeout with ⟨u, v, -, he⟩ | ⟨m, -, he⟩ <;>
      simp [connect, hc, he]

/-- In phase `IDLE` no host operation writes a frame: `EXECUTE` only starts its exchange (R134). -/
theorem exec_hostOperation_handsOverCommands {i : Instr} {s t : State} (hi : isHostOperation i = true)
    (hp : s.phase = .idle) (h : exec i s = .next t) : HandsOverCommands s t := by
  cases i with
  | execute relay action expect =>
    simp only [exec, execExecute, hp] at h
    split at h
    · split at h <;> cases h <;> exact .of_calls_eq rfl rfl
    · cases h; exact .of_calls_eq rfl rfl
  | connect port =>
    simp only [exec, execConnect, hp] at h
    cases h
    obtain ⟨-, -, -, hin⟩ := s.connect_keeps port
    refine ⟨hin, _, (s.connect_calls port).trans (List.append_assoc _ _ _), fun f hf => ?_⟩
    split at hf <;> simp at hf
  | disconnect =>
    simp only [exec, execDisconnect, hp] at h
    cases h
    exact ⟨rfl, [.close], rfl, by simp⟩
  | currentState a =>
    simp only [exec, execCurrentState, hp] at h
    cases h
    exact .of_calls_eq rfl rfl
  | _ => cases hi

/-! ## The statements -/

/-- A step in phase `IDLE` with only host operations at the port takes at most the first of them, and writes no frame. -/
theorem step_idle_handsOverCommands {s t : State} (hp : s.phase = .idle) (hhost : HostOnly s) (h : step s = .next t) :
    HandsOverCommands s t ∨ ∃ x rest, s.inbox = x :: rest ∧ HandsOverCommands { s with inbox := rest } t := by
  have hp' : s.envMove.phase = .idle := s.envMove_phase.trans hp
  rcases act_idle_cases hp' h with rfl | ⟨x, rest, hin, hx⟩
  · exact .inl (.of_calls_eq s.envMove_inbox s.envMove_calls)
  · rw [s.envMove_inbox] at hin
    refine .inr ⟨x, rest, hin, ?_⟩
    rcases hx with ⟨i, hd, hx⟩ | ⟨-, e, rfl⟩
    · have hi := isHostOperation_of_decode (hhost x (hin ▸ List.mem_cons_self)) hd
      have hover := exec_hostOperation_handsOverCommands (s := { s.envMove with inbox := rest }) hi hp' hx
      exact ⟨hover.inbox, by simpa using hover.calls⟩
    · exact .of_calls_eq rfl s.envMove_calls

/-- Settles O4: a busy step leaves the port alone and hands over at most the frame of its latched operands; an idle step takes a
host operation from the port and hands over none. -/
theorem stepWritesCommandFramesOnly : Obligations.StepWritesCommandFramesOnly := by
  intro s t _ hhost hcmds h
  by_cases hp : s.phase = .idle
  · rcases step_idle_handsOverCommands hp hhost h with hover | ⟨x, rest, hin, hover⟩
    · exact ⟨hover.commandsOnly hcmds, fun y hy => hhost y (hover.inbox ▸ hy)⟩
    · have hrest : t.inbox = rest := hover.inbox
      exact ⟨hover.commandsOnly hcmds, fun y hy => hhost y (hin ▸ List.mem_cons_of_mem x (hrest ▸ hy))⟩
  · have hover := step_busy_handsOverCommands hp h
    exact ⟨hover.commandsOnly hcmds, fun y hy => hhost y (hover.inbox ▸ hy)⟩

/-- Settles O31: each host operation is held in a busy phase, and no phase of an exchange reads the port. -/
theorem hostOperationsWaitWhileBusy : Obligations.HostOperationsWaitWhileBusy := fun _ hp =>
  ⟨fun _ hi => exec_hostOperation_busy hi hp, fun _ h => (step_busy_handsOverCommands hp h).inbox⟩

end Sys2Proof.Machine
end

section
/-! PROOFS. Two things nothing later can tell apart: the order of writes to the table (R56), and the input that stood unread
before a flush (R53, R206). -/

namespace Sys2Proof.Machine

/-! ## The order of writes -/

theorem Memory.write_write_same {m : Memory} (h : m.wf) (a : Byte) (v w : RelayState) :
    (m.write a v).write a w = m.write a w := by
  refine Memory.ext_of_wf (write_wf (write_wf h a v) a w) (write_wf h a w) fun c => ?_
  by_cases hc : c = a
  · simp only [hc, read_write_same]
  · simp only [read_write_ne _ _ hc]

theorem Memory.write_comm {m : Memory} (h : m.wf) {a b : Byte} (hab : a ≠ b) (v w : RelayState) :
    (m.write a v).write b w = (m.write b w).write a v := by
  refine Memory.ext_of_wf (write_wf (write_wf h a v) b w) (write_wf (write_wf h b w) a v) fun c => ?_
  by_cases ha : c = a
  · rw [ha, read_write_ne _ _ hab, read_write_same, read_write_same]
  by_cases hb : c = b
  · rw [hb, read_write_same, read_write_ne _ _ hab.symm, read_write_same]
  · rw [read_write_ne _ _ hb, read_write_ne _ _ ha, read_write_ne _ _ ha, read_write_ne _ _ hb]

theorem exec_rssSet (a : Byte) (v : RelayState) (s : State) :
    exec (.rssSet a v) s = .next { s with rss := s.rss.write a v, result := some .nothing } := rfl

/-- Settles O29: both orders read the same at every index, and the canonical table with given entries is unique. -/
theorem lastWriteWinsInAnyOrder : Obligations.LastWriteWinsInAnyOrder := by
  intro s a b v w hwf
  refine ⟨_, _, exec_rssSet a v s, exec_rssSet b w s, ?_, fun hab => ?_⟩
  · rintro rfl
    simp only [exec_rssSet, Memory.write_write_same hwf]
  · simp only [exec_rssSet, Memory.write_comm hwf hab]

/-! ## Input before a flush -/

/-- The step of phase `FLUSH` does not depend on the unread input (R53). -/
theorem step_flush_rxBuf (s : State) (rx rx' : ByteSeq) (h : s.phase = .flush) :
    step { s with rxBuf := rx } = step { s with rxBuf := rx' } := by
  by_cases hc : s.conn = .closed
  · have hp : s.phase ≠ .idle := by simp [h]
    rw [step_busy_closed (s := { s with rxBuf := rx }) hp hc, step_busy_closed (s := { s with rxBuf := rx' }) hp hc]
  · rw [step_flush (s := { s with rxBuf := rx }) h hc, step_flush (s := { s with rxBuf := rx' }) h hc,
      State.envMove_of_open { s with rxBuf := rx } hc, State.envMove_of_open { s with rxBuf := rx' } hc]
    rfl

/-- Runs that begin with the same step go the same way. -/
theorem run_succ_congr {s s' : State} (k : Nat) (h : step s = step s') :
    Host.Core.run core (k + 1) s = Host.Core.run core (k + 1) s' := by
  have h' : core.step s = core.step s' := h
  simp only [Host.Core.run, h']

/-- Settles O36: the flush is the first step of such a run, and it leaves the same state whatever was unread. -/
theorem staleInputIsNeverSeenAgain : Obligations.StaleInputIsNeverSeenAgain := fun s stale stale' k h =>
  run_succ_congr k (step_flush_rxBuf s stale stale' h)

end Sys2Proof.Machine
end

section
/-! PROOFS. The encoding: decode and encode undo each other (R61 to R66, R74), and what the decoder refuses (R67 to R72). -/

namespace Sys2Proof

/-! ## Decode after encode -/

/-- Every well-formed instruction is what its transaction decodes to, one law of `Laws.RoundTrip` per instruction. -/
theorem decode_encode (i : Instr) (h : i.wellFormed = true) : decode (encode i) = .ok i := by
  cases i with
  | cmdOff relay => exact Laws.RoundTrip.cmdOff relay h
  | cmdOn relay => exact Laws.RoundTrip.cmdOn relay h
  | cmdOffAck relay => exact Laws.RoundTrip.cmdOffAck relay h
  | cmdOnAck relay => exact Laws.RoundTrip.cmdOnAck relay h
  | cmdToggle relay => exact Laws.RoundTrip.cmdToggle relay h
  | cmdQuery relay => exact Laws.RoundTrip.cmdQuery relay h
  | rspOff addr => exact Laws.RoundTrip.rspOff addr h
  | rspOn addr => exact Laws.RoundTrip.rspOn addr h
  | rspOffAck addr => exact Laws.RoundTrip.rspOffAck addr h
  | rspOnAck addr => exact Laws.RoundTrip.rspOnAck addr h
  | rspUnknown addr status => exact Laws.RoundTrip.rspUnknown addr status h
  | encSelect action expect => exact Laws.RoundTrip.encSelect action expect h
  | encFrame relay op => exact Laws.RoundTrip.encFrame relay op h
  | encAction relay action expect => exact Laws.RoundTrip.encAction relay action expect h
  | decFrame bytes => exact Laws.RoundTrip.decFrame bytes h
  | decMap code => exact Laws.RoundTrip.decMap code h
  | rssGet a => exact Laws.RoundTrip.rssGet a h
  | rssSet a v => exact Laws.RoundTrip.rssSet a v h
  | rssInvalidate a => exact Laws.RoundTrip.rssInvalidate a h
  | currentState a => exact Laws.RoundTrip.currentState a h
  | execute relay action expect => exact Laws.RoundTrip.execute relay action expect h
  | connect port => exact Laws.RoundTrip.connect port h
  | disconnect => exact Laws.RoundTrip.disconnect h
  | tsOpen port baud readTimeout => exact Laws.RoundTrip.tsOpen port baud readTimeout h
  | tsClose => exact Laws.RoundTrip.tsClose h
  | tsFlush => exact Laws.RoundTrip.tsFlush h
  | tsWrite f => exact Laws.RoundTrip.tsWrite f h
  | tsRead timeout => exact Laws.RoundTrip.tsRead timeout h

/-! ## Encode after decode -/

/-- A command is well-formed and has the frame it was read from (R64, R69). -/
theorem encode_of_commandOf {f : Frame} {i : Instr} (h : commandOf f = .ok i) :
    i.wellFormed = true ∧ encode i = .frame .toDevice (mkFrame f.addr f.op).bytes := by
  unfold commandOf at h
  split at h
  · next hr =>
    rw [relayInRange_eq] at hr
    split_ifs at h with h0 h1 h2 h3 h4 h5 <;> cases h
    · exact ⟨hr, by rw [h0]; rfl⟩
    · exact ⟨hr, by rw [h1]; rfl⟩
    · exact ⟨hr, by rw [h2]; rfl⟩
    · exact ⟨hr, by rw [h3]; rfl⟩
    · exact ⟨hr, by rw [h4]; rfl⟩
    · exact ⟨hr, by rw [h5]; rfl⟩
  · cases h

/-- A response class is well-formed and has the frame it was read from (R66, R111). -/
theorem encode_responseOf (f : Frame) :
    (responseOf f).wellFormed = true ∧ encode (responseOf f) = .frame .toBlock (mkFrame f.addr f.op).bytes := by
  unfold responseOf
  split_ifs with h0 h1 h2 h3
  · exact ⟨rfl, by rw [h0]; rfl⟩
  · exact ⟨rfl, by rw [h1]; rfl⟩
  · exact ⟨rfl, by rw [h2]; rfl⟩
  · exact ⟨rfl, by rw [h3]; rfl⟩
  · have hge : 4 ≤ f.op.toNat := by bv_omega
    exact ⟨decide_eq_true hge, rfl⟩

/-- Bytes on a stream that decode are a well-formed frame, read as a command or as a response (R63, R78). -/
theorem decode_frame_ok {dir : Direction} {bytes : ByteSeq} {i : Instr} (h : decode (.frame dir bytes) = .ok i) :
    ∃ f, bytes = (mkFrame f.addr f.op).bytes ∧
      (dir = .toDevice ∧ commandOf f = .ok i ∨ dir = .toBlock ∧ responseOf f = i) := by
  rw [decode, decodeBytes] at h
  split at h
  · cases h
  · next f hf =>
    obtain ⟨hbytes, hmk⟩ := (checkFrame_ok_iff bytes f).1 hf
    refine ⟨f, by rw [← hmk]; exact hbytes, ?_⟩
    cases dir with
    | toDevice => exact .inl ⟨rfl, h⟩
    | toBlock => cases h; exact .inr ⟨rfl, rfl⟩

/-- Settles O9: the round trip of each instruction, and bytes that decode are the frame that both readings of it encode to. -/
theorem decodeInvertsEncode : Obligations.DecodeInvertsEncode := by
  refine ⟨decode_encode, fun dir bytes i h => ?_⟩
  obtain ⟨f, rfl, ⟨rfl, hcmd⟩ | ⟨rfl, rfl⟩⟩ := decode_frame_ok h
  · exact encode_of_commandOf hcmd
  · exact encode_responseOf f

/-! ## What the decoder refuses -/

/-- `op_sel` 0x11 to 0x1F names no operation (R74). -/
theorem decode_unassignedOperation {n : BitVec 5} (o : Operands) (h : 0x11 ≤ n.toNat) :
    decode (.operation n o) = .error (.unassignedOperation n) := by
  obtain ⟨k, hk⟩ : ∃ k, n.toNat = k + 0x11 := ⟨n.toNat - 0x11, by omega⟩
  simp only [decode, decodeOperation, hk]

/-- The `RelayState` code 0b01 names no state (R72). -/
theorem decode_reservedRelayState {o : Operands} (h : o.v = 0b01#2) :
    decode (.operation 0x06#5 o) = .error .reservedRelayState := by
  have hv : RelayState.ofCode o.v = none := by rw [h]; rfl
  simp [decode, decodeOperation, hv]

theorem decode_toDevice_mkFrame (a op : Byte) :
    decode (.frame .toDevice (mkFrame a op).bytes) = commandOf (mkFrame a op) := by
  simp only [decode, decodeBytes, checkFrame_mkFrame]

/-- A frame to the device whose address is no relay address is no command (R69). -/
theorem decode_commandAddress {a : Byte} (op : Byte) (h : isRelayAddress a = false) :
    decode (.frame .toDevice (mkFrame a op).bytes) = .error (.commandAddress a) := by
  rw [decode_toDevice_mkFrame, commandOf, mkFrame_addr, relayInRange_eq, h]
  rfl

/-- A frame to a relay address whose opcode byte is 0x06 or more is no command (R67). -/
theorem decode_commandOpcode {a op : Byte} (ha : isRelayAddress a = true) (h : 6 ≤ op.toNat) :
    decode (.frame .toDevice (mkFrame a op).bytes) = .error (.commandOpcode op) := by
  have hne (c : Byte) (hc : c.toNat < 6) : op ≠ c := fun e => by subst e; omega
  simp [decode_toDevice_mkFrame, commandOf, relayInRange_eq, ha, hne]

/-- Bytes that fail a check are refused with it, on either stream (R68). -/
theorem decode_badFrame (dir : Direction) {bytes : ByteSeq} {e : DecodeError} (h : checkFrame bytes = .error e) :
    decode (.frame dir bytes) = .error (.badFrame e) := by
  simp only [decode, decodeBytes, h]

/-! ## Words of the opcode table -/

/-- Settles O10: each word is closed, and the decoder is run on it. -/
theorem tableWordsDecodeToTheirRows : Obligations.TableWordsDecodeToTheirRows := by
  unfold Obligations.TableWordsDecodeToTheirRows
  decide

end Sys2Proof
end

section
/-! PROOFS. The encoding at the machine: what `IDLE` does with a transaction that is no instruction (R67 to R72, R104), what DEC
accepts (R105), the pseudo-operations (R76) and the codes of results (R73). -/

namespace Sys2Proof.Machine

/-! ## A transaction at the port that is no instruction -/

/-- In phase `IDLE` such a transaction leaves the port and is rejected, after the environment's move (log 16). -/
theorem step_idle_reject {s : State} {x : Transaction} {rest : List Transaction} {why : DecodeRefusal}
    (hp : s.phase = .idle) (hin : s.inbox = x :: rest) (hd : decode x = .error why) :
    step s = reject x why { s.envMove with inbox := rest } := by
  simp only [step, act, accept, State.envMove_phase, State.envMove_inbox, hp, hin, hd]

/-- Settles O8: each of the four is refused by the decoder, and none is bytes on the RX stream, the one thing `reject`
answers with a result. -/
theorem unassignedEncodingsAreRefusedByName : Obligations.UnassignedEncodingsAreRefusedByName := by
  intro s x rest hp hin
  refine ⟨?_, ?_, ?_, ?_⟩
  · rintro n o rfl hn
    exact step_idle_reject hp hin (decode_unassignedOperation o hn)
  · rintro o rfl hv
    exact step_idle_reject hp hin (decode_reservedRelayState hv)
  · rintro a op rfl ha
    have hbad : isRelayAddress a = false := decide_eq_false (by omega)
    exact step_idle_reject hp hin (decode_commandAddress op hbad)
  · rintro a op rfl hlo hhi hop
    have hrelay : isRelayAddress a = true := decide_eq_true ⟨hlo, hhi⟩
    exact step_idle_reject hp hin (decode_commandOpcode hrelay hop)

/-- In phase `IDLE` bytes on the RX stream that fail a check are answered with it (R68, log 16). -/
theorem step_idle_badFrame {s : State} {bytes : ByteSeq} {rest : List Transaction} {e : DecodeError}
    (hp : s.phase = .idle) (hin : s.inbox = .frame .toBlock bytes :: rest) (h : checkFrame bytes = .error e) :
    step s = .next { s.envMove with inbox := rest, result := some (errorResult e) } :=
  step_idle_reject hp hin (decode_badFrame .toBlock h)

/-- Settles O7: one failing check per clause, in the order of `checkFrame`. -/
theorem malformedResponseIsAnsweredByItsCheck : Obligations.MalformedResponseIsAnsweredByItsCheck := by
  intro s bytes rest hp hin
  refine ⟨fun hlen => step_idle_badFrame hp hin (checkFrame_length hlen), ?_⟩
  rintro b0 b1 b2 b3 rfl
  refine ⟨fun hsum => step_idle_badFrame (e := .checksumError) hp hin ?_,
    fun hsum hhdr => step_idle_badFrame (e := .headerError) hp hin ?_⟩
  · rw [checkFrame_four, if_pos hsum]
  · rw [checkFrame_four, if_neg (not_not_intro hsum), if_pos hhdr]

/-! ## DEC's successes -/

/-- DEC's result is a success exactly where the checks pass, and it names the frame's address and status byte (R105). -/
theorem decodeResult_eq_decoded_iff {bytes : ByteSeq} {addr code : Byte} {state : DecodedState} :
    decodeResult bytes = .decoded addr state code ↔ bytes = (mkFrame addr code).bytes ∧ state = stateOf code := by
  constructor
  · intro h
    cases hc : checkFrame bytes with
    | error e => cases e <;> simp [decodeResult, decodeFrame, hc, errorResult] at h
    | ok f =>
      obtain ⟨hbytes, hmk⟩ := (checkFrame_ok_iff bytes f).1 hc
      simp only [decodeResult, decodeFrame, hc, Result.decoded.injEq] at h
      obtain ⟨rfl, hst, rfl⟩ := h
      exact ⟨by rw [← hmk]; exact hbytes, hst.symm⟩
  · rintro ⟨rfl, rfl⟩
    simp only [decodeResult, decodeFrame, checkFrame_mkFrame, mkFrame_addr, mkFrame_op]

theorem exec_decFrame (bytes : ByteSeq) (s : State) :
    exec (.decFrame bytes) s = .next (s.ret (decodeResult bytes)) := rfl

/-- Settles O19: the sequences on which DEC's result is a success are the frames `mkFrame` writes. -/
theorem decFrameAcceptsExactlyTheWellFormed : Obligations.DecFrameAcceptsExactlyTheWellFormed := by
  intro s bytes
  constructor
  · rintro ⟨t, addr, state, code, hexec, hres⟩
    rw [exec_decFrame] at hexec
    cases hexec
    exact ⟨addr, code, (decodeResult_eq_decoded_iff.1 (Option.some.inj hres)).1⟩
  · rintro ⟨addr, code, hbytes⟩
    have hres : decodeResult bytes = .decoded addr (stateOf code) code := decodeResult_eq_decoded_iff.2 ⟨hbytes, rfl⟩
    exact ⟨_, addr, stateOf code, code, exec_decFrame bytes s, congrArg some hres⟩

/-! ## Opcode selection and the pseudo-operations -/

theorem exec_encSelect (action : Action) (expect : Bool) (s : State) :
    exec (.encSelect action expect) s = .next (s.ret (.opcode (selectOp action expect))) := rfl

/-- The bits of the selected opcode, from the bits of the action code and the expect bit (R65). -/
theorem selectOp_bits (action : Action) (expect : Bool) :
    (selectOp action expect).extractLsb' 3 5 = 0b00000#5 ∧
    (selectOp action expect).getLsbD 2 = action.toCode.getLsbD 1 ∧
    (selectOp action expect).getLsbD 1 = (!action.toCode.getLsbD 1 && expect) ∧
    (selectOp action expect).getLsbD 0 = action.toCode.getLsbD 0 := by
  cases action <;> cases expect <;> decide

/-- Settles O12: the opcode returned is `selectOp`, whose bits are the function of R65 in each of the eight cases. -/
theorem selectedOpcodeIsTheBitFunction : Obligations.SelectedOpcodeIsTheBitFunction := fun s action expect =>
  ⟨selectOp action expect, exec_encSelect action expect s, selectOp_bits action expect⟩

theorem exec_currentState_idle {s : State} (a : Byte) (hp : s.phase = .idle) :
    exec (.currentState a) s = exec (.rssGet a) s := by
  simp only [exec, execCurrentState, hp, execRssGet]

/-- `ENC.ACTION` is `ENC.FRAME` of whatever opcode `ENC.SELECT` returns (R76, R89). -/
theorem exec_encAction_eq_encFrame {s t : State} {action : Action} {expect : Bool} {op : Byte} (relay : Byte)
    (hsel : exec (.encSelect action expect) s = .next t) (hop : t.result = some (.opcode op)) :
    exec (.encAction relay action expect) s = exec (.encFrame relay op) s := by
  rw [exec_encSelect] at hsel
  cases hsel
  cases hop
  rw [exec_encAction, exec_encFrame]

/-- Settles O16: the invalidation and the six commands are their expansions by definition, and `selectOp` ignores the expect bit
of a toggle and a query. -/
theorem pseudoOperationsEqualTheirExpansions : Obligations.PseudoOperationsEqualTheirExpansions := fun _ a _ =>
  ⟨exec_currentState_idle a, rfl, fun _ _ ⟨_, hsel, hop⟩ => exec_encAction_eq_encFrame a hsel hop,
    rfl, rfl, rfl, rfl, rfl, rfl⟩

/-! ## Result codes -/

/-- The codes 0x5 and 0x6 are no result's. -/
theorem Result.code_ne_reserved (r : Result) : r.code ≠ some 0x5#4 ∧ r.code ≠ some 0x6#4 := by
  unfold code
  split <;> decide

/-- Bit 3 of the code is set for exactly the eight failures of R73. -/
theorem Result.isFailure_iff (r : Result) :
    r.isFailure = true ↔ (∃ a, r = .invalidAddress a) ∨ r = .notConnected ∨ r = .communicationError ∨ r = .lengthError ∨
      r = .checksumError ∨ r = .headerError ∨ (∃ m, r = .openError m) ∨ r = .writeError := by
  constructor
  · intro h
    cases r with
    | invalidAddress a => exact .inl ⟨a, rfl⟩
    | notConnected | communicationError | lengthError | checksumError | headerError | openError _ | writeError => simp
    | _ => cases h
  · rintro (⟨a, rfl⟩ | rfl | rfl | rfl | rfl | rfl | ⟨m, rfl⟩ | rfl) <;> rfl

/-- Settles O58: the code of each result is its definition's; the rest is `code_ne_reserved` and `isFailure_iff`. -/
theorem resultCodesMarkFailures : Obligations.ResultCodesMarkFailures :=
  ⟨rfl, fun _ _ _ => rfl, rfl, fun _ _ _ => rfl, rfl, rfl, rfl, fun _ => rfl, rfl, rfl, rfl, rfl, rfl, fun _ => rfl, rfl,
    fun r => ⟨r.code_ne_reserved.1, r.code_ne_reserved.2, r.isFailure_iff⟩⟩

end Sys2Proof.Machine
end

section
/-! PROOFS. ENC's frames (R80 to R91): which frame each encoding instruction returns, which addresses it refuses, that DEC
accepts every frame returned, and that DEC rejects it with any one byte changed (R213). -/

namespace Sys2Proof.Machine

/-! ## The machine's terms and the rules' listing -/

theorem selectOp_eq_listing (action : Action) (expect : Bool) : selectOp action expect = Listing.opcode action expect := by
  cases action <;> cases expect <;> rfl

/-- The status map compares bytes, its listing their numbers (R66). -/
theorem stateOf_eq_listing (code : Byte) : stateOf code = Listing.state code := by
  by_cases h0 : code = 0x00#8
  · rw [h0]; rfl
  by_cases h1 : code = 0x01#8
  · rw [h1]; rfl
  by_cases h2 : code = 0x02#8
  · rw [h2]; rfl
  by_cases h3 : code = 0x03#8
  · rw [h3]; rfl
  have hge : 4 ≤ code.toNat := by bv_omega
  rw [stateOf, if_neg (by simp [h0, h2]), if_neg (by simp [h1, h3]), Listing.state, if_neg (by omega), if_neg (by omega),
    if_neg (by omega), if_neg (by omega)]

/-! ## What ENC returns, and what it refuses -/

theorem frameResult_of_relayAddress {relay : Byte} (op : Byte) (hlo : 1 ≤ relay.toNat) (hhi : relay.toNat ≤ 254) :
    frameResult relay op = .frame (Listing.frame relay op) :=
  if_pos (decide_eq_true ⟨hlo, hhi⟩)

theorem frameResult_of_refusedAddress {relay : Byte} (op : Byte) (h : relay.toNat = 0 ∨ relay.toNat = 255) :
    frameResult relay op = .invalidAddress relay := by
  have hbad : isRelayAddress relay = false := decide_eq_false (by omega)
  rw [frameResult, hbad]
  rfl

/-- `ENC.FRAME` of a relay address: the frame of R61 and R62 is delivered and nothing else is written (R87). -/
theorem exec_encFrame_of_relayAddress {relay : Byte} (op : Byte) (s : State) (hlo : 1 ≤ relay.toNat)
    (hhi : relay.toNat ≤ 254) :
    exec (.encFrame relay op) s = .next { s with result := some (.frame (Listing.frame relay op)) } := by
  rw [exec_encFrame, frameResult_of_relayAddress op hlo hhi, State.ret]

/-- `ENC.FRAME` of 0 or 255: the refusal is delivered and nothing else is written (R88). -/
theorem exec_encFrame_of_refusedAddress {relay : Byte} (op : Byte) (s : State)
    (h : relay.toNat = 0 ∨ relay.toNat = 255) :
    exec (.encFrame relay op) s = .next { s with result := some (.invalidAddress relay) } := by
  rw [exec_encFrame, frameResult_of_refusedAddress op h, State.ret]

/-- The listing's checksum is the sum of the other three bytes modulo 256 (R62). -/
theorem listing_frame_csum_toNat (relay op : Byte) :
    (Listing.frame relay op).csum.toNat = (160 + relay.toNat + op.toNat) % 256 := by
  simp only [Listing.frame, BitVec.toNat_add, BitVec.toNat_ofNat]
  omega

/-- Settles O13: the frame returned is the listing's, so its checksum is the sum of R62. -/
theorem encFrameAssemblesTheFrame : Obligations.EncFrameAssemblesTheFrame := fun s relay op =>
  ⟨fun hlo hhi => ⟨(Listing.frame relay op).csum, exec_encFrame_of_relayAddress op s hlo hhi,
    listing_frame_csum_toNat relay op⟩, exec_encFrame_of_refusedAddress op s⟩

theorem exec_encAction_eq_encFrame_listing (relay : Byte) (action : Action) (expect : Bool) (s : State) :
    exec (.encAction relay action expect) s = exec (.encFrame relay (Listing.opcode action expect)) s := by
  rw [exec_encAction, exec_encFrame, selectOp_eq_listing]

/-- Settles O14: `ENC.ACTION` is `ENC.FRAME` of the listed opcode. -/
theorem encActionFramesTheSelectedOpcode : Obligations.EncActionFramesTheSelectedOpcode := by
  intro s relay action expect
  rw [exec_encAction_eq_encFrame_listing]
  exact ⟨exec_encFrame_of_relayAddress _ s, exec_encFrame_of_refusedAddress _ s⟩

/-- A checksum with the header added to the opcode first, as R81 to R86 print it. -/
theorem listing_frame_eq_of_sum {relay op c : Byte} (hc : c = 0xA0#8 + op) :
    Listing.frame relay op = ⟨0xA0#8, relay, op, c + relay⟩ := by
  rw [Listing.frame, hc, add_right_comm]

/-- Settles O15: each command is `ENC.FRAME` of its own opcode, whose frame is the pattern and whose refusal is the same. -/
theorem commandFramesAreTheSixPatterns : Obligations.CommandFramesAreTheSixPatterns := by
  intro s relay
  refine ⟨fun hlo hhi => ?_, fun hbad i hi => ?_⟩
  · have pattern {op c : Byte} (hc : c = 0xA0#8 + op) :
        exec (.encFrame relay op) s = .next { s with result := some (.frame ⟨0xA0#8, relay, op, c + relay⟩) } := by
      rw [exec_encFrame_of_relayAddress op s hlo hhi, listing_frame_eq_of_sum hc]
    exact ⟨pattern rfl, pattern rfl, pattern rfl, pattern rfl, pattern rfl, pattern rfl⟩
  · obtain ⟨op, hop⟩ := exec_command_eq_encFrame hi
    rw [hop, exec_encFrame_of_refusedAddress op s hbad]

/-- Settles O11: `ENC.SELECT` returns `selectOp`, whose definition lists the eight inputs. -/
theorem selectGivesTheOpcodeTable : Obligations.SelectGivesTheOpcodeTable := fun s =>
  ⟨exec_encSelect .turnOff false s, exec_encSelect .turnOn false s, exec_encSelect .turnOff true s,
    exec_encSelect .turnOn true s, fun e => ⟨exec_encSelect .toggle e s, exec_encSelect .queryStatus e s⟩⟩

/-! ## DEC on ENC's frames -/

theorem decodeResult_listing_frame (addr code : Byte) :
    decodeResult (Listing.frame addr code).bytes = .decoded addr (Listing.state code) code :=
  decodeResult_eq_decoded_iff.2 ⟨rfl, (stateOf_eq_listing code).symm⟩

/-- Settles O17: the frame returned is the listing's, and DEC's result on it names its address, state and code. -/
theorem everyEncodedFrameIsAccepted : Obligations.EveryEncodedFrameIsAccepted := fun s relay op hlo hhi =>
  ⟨Listing.frame relay op, _, exec_encFrame_of_relayAddress op s hlo hhi, rfl, fun u => by
    rw [exec_decFrame, decodeResult_listing_frame, State.ret]⟩

/-- A wrong checksum is answered first, whatever the header is (R102, R104). -/
theorem decodeResult_of_checksum_ne {b0 b1 b2 b3 : Byte} (h : b3 ≠ b0 + b1 + b2) :
    decodeResult [b0, b1, b2, b3] = .checksumError := by
  rw [decodeResult, decodeFrame_four, if_pos h]
  rfl

/-- Addition modulo 256 cancels, so one changed byte changes the sum or the checksum, never both alike (R90). -/
theorem decodeResult_listing_frame_set {addr code b : Byte} {k : Nat} (hk : k < 4)
    (hb : (Listing.frame addr code).bytes[k]? ≠ some b) :
    decodeResult ((Listing.frame addr code).bytes.set k b) = .checksumError := by
  have hne (c : Byte) (hc : (Listing.frame addr code).bytes[k]? = some c) : c ≠ b := fun e => hb (e ▸ hc)
  obtain rfl | rfl | rfl | rfl : k = 0 ∨ k = 1 ∨ k = 2 ∨ k = 3 := by omega
  · exact decodeResult_of_checksum_ne (by simpa [Listing.frame] using hne 0xA0#8 rfl)
  · exact decodeResult_of_checksum_ne (by simpa [Listing.frame] using hne addr rfl)
  · exact decodeResult_of_checksum_ne (by simpa [Listing.frame] using hne code rfl)
  · exact decodeResult_of_checksum_ne (hne (0xA0#8 + addr + code) rfl).symm

/-- Settles O20: DEC's result on such bytes is the checksum failure, at each of the four positions. -/
theorem singleByteErrorsAreCaught : Obligations.SingleByteErrorsAreCaught := fun s addr code b k hk hb =>
  ⟨_, exec_decFrame _ s, by rw [decodeResult_listing_frame_set hk hb, State.ret]⟩

end Sys2Proof.Machine
end

section
/-! PROOFS. DEC (R100 to R111): the order of its checks, the status map on all 256 codes, and a response frame in and outside
phase `READ`. -/

namespace Sys2Proof.Machine

/-! ## Frame validation -/

/-- The checksum compares bytes, its rule the numbers modulo 256 (R62, R102). -/
theorem eq_byteSum_iff (b0 b1 b2 b3 : Byte) :
    b3 = b0 + b1 + b2 ↔ b3.toNat = (b0.toNat + b1.toNat + b2.toNat) % 256 := by
  rw [← BitVec.toNat_inj]
  simp only [BitVec.toNat_add, Nat.mod_add_mod]

theorem decodeResult_of_length_ne {bytes : ByteSeq} (h : bytes.length ≠ 4) : decodeResult bytes = .lengthError := by
  rw [decodeResult, decodeFrame_length h]
  rfl

/-- The header is looked at once the checksum is right (R103, R104). -/
theorem decodeResult_of_header_ne {b0 b1 b2 b3 : Byte} (hsum : b3 = b0 + b1 + b2) (hhdr : b0 ≠ 0xA0#8) :
    decodeResult [b0, b1, b2, b3] = .headerError := by
  rw [decodeResult, decodeFrame_four, if_neg (not_not_intro hsum), if_pos hhdr]
  rfl

/-- Settles O18: one result of DEC per clause, the sums compared as numbers; four bytes that pass are a listed frame. -/
theorem decFrameChecksInOrder : Obligations.DecFrameChecksInOrder := by
  intro s bytes
  refine ⟨fun hlen => ?_, ?_⟩
  · rw [exec_decFrame, decodeResult_of_length_ne hlen, State.ret]
  rintro b0 b1 b2 b3 rfl
  simp only [exec_decFrame, ne_eq, ← eq_byteSum_iff]
  refine ⟨fun hsum => ?_, fun hsum => ⟨fun hhdr => ?_, ?_⟩⟩
  · rw [decodeResult_of_checksum_ne hsum, State.ret]
  · rw [decodeResult_of_header_ne hsum hhdr, State.ret]
  · rintro rfl
    have hframe : [0xA0#8, b1, b2, b3] = (Listing.frame b1 b2).bytes := by rw [hsum]; rfl
    rw [hframe, decodeResult_listing_frame, State.ret]

/-! ## The status map -/

theorem listing_state_off {code : Byte} (h : code.toNat = 0 ∨ code.toNat = 2) : Listing.state code = .off := by
  rcases h with h | h <;> simp [Listing.state, h]

theorem listing_state_on {code : Byte} (h : code.toNat = 1 ∨ code.toNat = 3) : Listing.state code = .on := by
  rcases h with h | h <;> simp [Listing.state, h]

theorem listing_state_unknown {code : Byte} (h : 4 ≤ code.toNat) : Listing.state code = .unknown code := by
  rw [Listing.state, if_neg (by omega), if_neg (by omega), if_neg (by omega), if_neg (by omega)]

theorem exec_decMap (code : Byte) (s : State) :
    exec (.decMap code) s = .next { s with result := some (.mapped (Listing.state code)) } := by
  rw [← stateOf_eq_listing]
  rfl

/-- Settles O21: `DEC.MAP` delivers the listed state, which is one of the three by the number of the code. -/
theorem decMapIsTheStatusMap : Obligations.DecMapIsTheStatusMap := by
  intro s code
  rw [exec_decMap]
  exact ⟨fun h => by rw [listing_state_off h], fun h => by rw [listing_state_on h],
    fun h => by rw [listing_state_unknown h]⟩

/-! ## Response frames -/

/-- Narrowing drops the raw code, so the listed state becomes the listed entry (R125). -/
theorem narrow_listing_state (code : Byte) : narrow (Listing.state code) = Listing.entry code := by
  simp only [Listing.state, Listing.entry, apply_ite narrow]
  rfl

/-- While SEQ awaits no response, DEC's result is all a response frame leaves (R105, log 15). -/
theorem State.response_of_ne_read {s : State} (addr code : Byte) (hp : s.phase ≠ .read) :
    s.response addr code = s.ret (.decoded addr (Listing.state code) code) := by
  rw [response, stateOf_eq_listing]
  cases h : s.phase with
  | read => exact absurd h hp
  | idle | flush | write => rfl

/-- In phase `READ` SEQ writes the entry of the frame's own address and ends the exchange (R145, log 15). -/
theorem State.response_of_read {s : State} (addr code : Byte) (hp : s.phase = .read) :
    s.response addr code =
      (s.rssWrite addr (Listing.entry code)).finish (.statusReceived addr (Listing.state code) code) := by
  rw [response, hp, stateOf_eq_listing, ← narrow_listing_state]
  rfl

/-- Settles O22: each class is a response with a status code of its own, which the listing maps to the class's state. -/
theorem responseClassesDecodeToTheirStates : Obligations.ResponseClassesDecodeToTheirStates := by
  intro s addr hp
  have decoded (code : Byte) : Host.Outcome.next (s.response addr code) =
      (.next { s with result := some (.decoded addr (Listing.state code) code) } : Host.Outcome State Fault Refusal) :=
    congrArg _ (State.response_of_ne_read addr code hp)
  refine ⟨decoded 0x00#8, decoded 0x01#8, decoded 0x02#8, decoded 0x03#8, fun status h => ?_⟩
  rw [← listing_state_unknown h]
  exact decoded status

/-- Settles O23: each class is a response with its own status code, and in phase `READ` a response is one write and the end
of the exchange. -/
theorem responseClassesUpdateTheTableInRead : Obligations.ResponseClassesUpdateTheTableInRead := by
  intro s addr code i hp hclass
  have hexec : exec i s = .next (s.response addr code) := by
    rcases hclass with ⟨rfl, rfl⟩ | ⟨rfl, rfl⟩ | ⟨rfl, rfl⟩ | ⟨rfl, rfl⟩ | ⟨rfl, _⟩ <;> rfl
  rw [State.response_of_read addr code hp] at hexec
  exact ⟨_, hexec, State.entrySet_write_finish s addr _ _, rfl, rfl, rfl, rfl, rfl, rfl, rfl, rfl⟩

end Sys2Proof.Machine
end

section
/-! PROOFS. The state table: its three operations and the host's view of it (R120 to R123, R127), and which steps of the block
write it (R124, R126). -/

namespace Sys2Proof.Machine

/-! ## The operations of the table -/

theorem exec_rssGet (a : Byte) (s : State) :
    exec (.rssGet a) s = .next { s with result := some (.entry (s.rss.read a)) } := rfl

/-- Invalidation is the write of `Unknown` (R122). -/
theorem exec_rssInvalidate_eq_rssSet (a : Byte) (s : State) : exec (.rssInvalidate a) s = exec (.rssSet a .unknown) s := rfl

/-- Settles O27: the table left is the write of that entry. -/
theorem rssSetWritesOneEntry : Obligations.RssSetWritesOneEntry := fun s a v =>
  ⟨s.rss.write a v, exec_rssSet a v s, s.rss.entrySet_write a v⟩

/-- Settles O28: an invalidation is a write of `Unknown`, so it is an instance of what `RSS.SET` does. -/
theorem rssInvalidateClearsOneEntry : Obligations.RssInvalidateClearsOneEntry := fun s a =>
  exec_rssInvalidate_eq_rssSet a s ▸ rssSetWritesOneEntry s a .unknown

/-- Settles O26: the operation reads the table, and at reset every entry is `Unknown` (R32). -/
theorem rssGetReturnsTheEntry : Obligations.RssGetReturnsTheEntry := by
  obtain ⟨hunknown, -, -⟩ := resetHoldsTheStatedValues
  refine ⟨fun s a => exec_rssGet a s, fun a => ?_⟩
  rw [exec_rssGet, hunknown a]

/-- Settles O30: in phase `IDLE` the host's read is `RSS.GET`. -/
theorem currentStateReadsInIdle : Obligations.CurrentStateReadsInIdle := fun s a hp =>
  (exec_currentState_idle a hp).trans (exec_rssGet a s)

/-! ## The steps that write the table -/

/-- While only host operations wait at the port, a step leaves the table alone or writes one entry: the commanded one, in
phase `WRITE` or `READ`, or in phase `READ` the one the result names (R124, R126). -/
theorem step_rss_cases_of_hostOnly {s t : State} (hhost : HostOnly s) (h : step s = .next t) :
    t.rss = s.rss ∨
    ∃ a v, t.rss = s.rss.write a v ∧
      (s.phase = .write ∧ a = s.cur.relay ∨
       s.phase = .read ∧ (a = s.cur.relay ∨ ∃ st c, t.result = some (.statusReceived a st c))) := by
  by_cases hidle : s.phase = .idle
  · exact .inl (step_idle_rss_of_hostOnly hidle hhost h)
  obtain ⟨hopen, ⟨hrss, -⟩ | ⟨-, hrss | ⟨v, hw⟩ | ⟨hread, a, st, c, hw, hres⟩⟩⟩ := step_busy_cases hidle h
  · exact .inl hrss
  · exact .inl hrss
  · cases hp : s.phase with
    | idle => exact absurd hp hidle
    | flush =>
      rw [step_flush hp hopen] at h
      cases h
      exact .inl s.envMove_rss
    | write => exact .inr ⟨_, v, hw, .inl ⟨rfl, rfl⟩⟩
    | read => exact .inr ⟨_, v, hw, .inr ⟨rfl, .inl rfl⟩⟩
  · exact .inr ⟨a, narrow st, hw, .inr ⟨hread, .inr ⟨st, c, hres⟩⟩⟩

/-- Settles O55: the entry that changed is the one the step wrote, and a write leaves every other entry alone. -/
theorem tableChangesOnlyByAnExchange : Obligations.TableChangesOnlyByAnExchange := by
  intro s t a hhost h hne
  rcases step_rss_cases_of_hostOnly hhost h with hrss | ⟨b, v, hw, hwhere⟩
  · exact absurd (by rw [hrss]) hne
  · have hab : a = b := Memory.eq_of_read_write_ne (hw ▸ hne)
    subst hab
    exact ⟨hwhere, fun c hc => by rw [hw, Memory.read_write_ne _ _ hc]⟩

end Sys2Proof.Machine
end

section
/-! PROOFS. The environment's move and phase `IDLE`: what moves before a step (R147, R183), the transaction a step takes (R190),
and the host's operations at their acceptance: `EXECUTE` (R132 to R134), `CONNECT` (R148) and `DISCONNECT` (R149). -/

namespace Sys2Proof.Machine

/-! ## The environment's move -/

/-- Settles O6: `envMove_of_open` names the bytes that move, and a listed answer is the one taken. -/
theorem betweenStepsOnlyTheBuffersMove : Obligations.BetweenStepsOnlyTheBuffersMove := by
  intro s
  refine ⟨s.envMove_of_closed, fun hc => ⟨_, _, _, s.envMove_of_open hc, by simp, by simp, by simp, fun n ns hn => ?_,
    fun bs bss hbs => ?_⟩⟩
  · rw [Env.takeDrain_cons hn]
  · rw [Env.takeArrival_cons ((Env.takeDrain_arrivals _).trans hbs)]

/-! ## The transaction next at the port -/

/-- In phase `IDLE` the next transaction leaves the port and its instruction is run, after the environment's move (R190). -/
theorem step_idle_exec {s : State} {x : Transaction} {rest : List Transaction} {i : Instr} (hp : s.phase = .idle)
    (hin : s.inbox = x :: rest) (hd : decode x = .ok i) : step s = exec i { s.envMove with inbox := rest } := by
  simp only [step, act, accept, State.envMove_phase, State.envMove_inbox, hp, hin, hd]

/-- In phase `IDLE` with nothing at the port only the environment moves (log 24). -/
theorem step_idle_hold {s : State} (hp : s.phase = .idle) (hin : s.inbox = []) : step s = .next s.envMove := by
  simp only [step, act, accept, State.envMove_phase, State.envMove_inbox, hp, hin]

/-- Settles O5: the two cases of the port are `step_idle_exec` and `step_idle_hold`. -/
theorem stepRunsTheDecodedTransaction : Obligations.StepRunsTheDecodedTransaction :=
  ⟨fun _ _ _ _ => step_idle_exec, fun _ => step_idle_hold⟩

/-! ## The acceptance of EXECUTE -/

theorem isRelayAddress_of_range {relay : Byte} (hlo : 1 ≤ relay.toNat) (hhi : relay.toNat ≤ 254) :
    isRelayAddress relay = true := decide_eq_true ⟨hlo, hhi⟩

/-- The address is checked first: a bad one is refused open or closed (R132). -/
theorem exec_execute_badAddress {s : State} {relay : Byte} (action : Action) (expect : Bool) (hp : s.phase = .idle)
    (hr : isRelayAddress relay = false) :
    exec (.execute relay action expect) s = .next (s.raise (.invalidAddress relay)) := by
  simp only [exec, execExecute, hp, relayInRange_eq, hr, if_false, Bool.false_eq_true]

/-- The connection is checked next (R133). -/
theorem exec_execute_closed {s : State} {relay : Byte} (action : Action) (expect : Bool) (hp : s.phase = .idle)
    (hr : isRelayAddress relay = true) (hc : s.conn = .closed) :
    exec (.execute relay action expect) s = .next (s.raise .notConnected) := by
  simp only [exec, execExecute, hp, relayInRange_eq, hr, hc, if_true]

/-- When both checks pass the operands are latched and the exchange begins (R134). -/
theorem exec_execute_open {s : State} {relay : Byte} (action : Action) (expect : Bool) (hp : s.phase = .idle)
    (hr : isRelayAddress relay = true) (hc : s.conn ≠ .closed) :
    exec (.execute relay action expect) s = .next ({ s with cur := ⟨relay, action, expect⟩ }.goTo .flush) := by
  cases hconn : s.conn with
  | closed => exact absurd hconn hc
  | openOn port => simp only [exec, execExecute, hp, relayInRange_eq, hr, hconn, if_true]

/-- Settles O32: 0 and 255 are no relay addresses, and that is the first check. -/
theorem executeRefusesABadAddress : Obligations.ExecuteRefusesABadAddress := fun _ _ action expect hp hbad =>
  exec_execute_badAddress action expect hp (decide_eq_false (by omega))

/-- Settles O33: the address passes and the connection does not. -/
theorem executeNeedsAConnection : Obligations.ExecuteNeedsAConnection := fun _ _ action expect hp hlo hhi hc =>
  exec_execute_closed action expect hp (isRelayAddress_of_range hlo hhi) hc

/-- Settles O34: both checks pass. -/
theorem executeLatchesItsOperands : Obligations.ExecuteLatchesItsOperands := fun _ _ action expect hp hlo hhi hc =>
  exec_execute_open action expect hp (isRelayAddress_of_range hlo hhi) hc

/-! ## CONNECT and DISCONNECT -/

theorem exec_connect_idle {s : State} (port : PortId) (hp : s.phase = .idle) :
    exec (.connect port) s = .next (s.connect port) := by
  simp only [exec, execConnect, hp]

/-- With a session open, `CONNECT` is its close and then what `CONNECT` does on a closed one (R148). -/
theorem State.connect_eq_connect_closed (s : State) (port : PortId) : ∃ s1 : State,
    s1.conn = .closed ∧ s1.env = s.env ∧ s1.line = s.line ∧ s.connect port = s1.connect port := by
  cases hc : s.conn with
  | closed => exact ⟨s, hc, rfl, rfl, rfl⟩
  | openOn p => exact ⟨s.tsClose, rfl, rfl, rfl, by simp only [connect, hc, tsClose_conn]⟩

/-- The two ends of `CONNECT`, by the environment's answer to its `TS.OPEN` (R148). -/
theorem State.connect_cases (s : State) (port : PortId) : (s.connect port).line = s.line ∧
    ((∃ u v, s.env.takeOpen.1 = .ok u v ∧ (s.connect port).conn = .openOn port ∧ (s.connect port).result = some .ok ∧
        (s.connect port).rxBuf = u ∧ (s.connect port).txBuf = v) ∨
     ∃ msg, s.env.takeOpen.1 = .error msg ∧ (s.connect port).conn = .closed ∧
        (s.connect port).result = some (.openError msg)) := by
  obtain ⟨s1, hc, henv, hline, heq⟩ := s.connect_eq_connect_closed port
  rw [heq, ← henv, ← hline]
  rcases s1.tsOpen_cases port Config.baud Config.readTimeout with ⟨u, v, hans, he⟩ | ⟨msg, hans, he⟩
  · simp only [connect, hc, he]
    exact ⟨rfl, .inl ⟨u, v, hans, rfl, rfl, rfl, rfl⟩⟩
  · simp only [connect, hc, he]
    exact ⟨rfl, .inr ⟨msg, hans, hc, rfl⟩⟩

/-- Settles O48: what `CONNECT` keeps and calls are laws of their own; its end is by the answer, which is the listed one where
one is listed. -/
theorem connectClosesThenOpens : Obligations.ConnectClosesThenOpens := by
  intro s port hp
  refine ⟨_, exec_connect_idle port hp, s.connect_keeps port, ?_⟩
  obtain ⟨hline, ⟨u, v, hans, hconn, hres, hrx, htx⟩ | ⟨msg, hans, hconn, hres⟩⟩ := s.connect_cases port
  · refine ⟨hline, s.connect_calls port, .inl ⟨hconn, hres⟩, fun u' v' os hos => ?_, fun msg os hos => ?_⟩
    · rw [Env.takeOpen_cons hos] at hans
      cases hans
      exact ⟨hconn, hrx, htx⟩
    · rw [Env.takeOpen_cons hos] at hans
      cases hans
  · refine ⟨hline, s.connect_calls port, .inr ⟨hconn, msg, hres⟩, fun u v os hos => ?_, fun msg' os hos => ?_⟩
    · rw [Env.takeOpen_cons hos] at hans
      cases hans
    · rw [Env.takeOpen_cons hos] at hans
      cases hans
      exact hres

theorem exec_disconnect_idle {s : State} (hp : s.phase = .idle) :
    exec .disconnect s = .next (s.tsClose.ret .nothing) := by
  simp only [exec, execDisconnect, hp]

/-- Settles O49: in phase `IDLE` it is one `TS.CLOSE`, open or closed. -/
theorem disconnectCloses : Obligations.DisconnectCloses := fun _ => exec_disconnect_idle

end Sys2Proof.Machine
end

section
/-! PROOFS. The phases of an exchange, one step each: `FLUSH` (R135), `WRITE` (R136 to R140) and `READ` (R141 to R146), for each
answer of the environment. -/

namespace Sys2Proof.Machine

/-! ## Phase FLUSH -/

/-- Settles O35: the step is the environment's move and one `TS.FLUSH`. -/
theorem flushPhaseEmptiesBothBuffers : Obligations.FlushPhaseEmptiesBothBuffers := fun s hp hc =>
  ⟨_, step_flush hp hc, rfl, rfl, rfl, by simp, rfl, by simp, by simp, by simp, by simp, rfl⟩

/-! ## Phase WRITE -/

theorem State.commandFrame_eq_listing (s : State) :
    s.commandFrame = Listing.frame s.cur.relay (Listing.opcode s.cur.action s.cur.expect) := by
  rw [commandFrame, selectOp_eq_listing]
  rfl

theorem State.entrySet_lose (s : State) (r : Result) : EntrySet s.rss (s.lose r).rss s.cur.relay .unknown :=
  Memory.entrySet_write s.rss s.cur.relay .unknown

/-- Settles O38: the end of `WRITE` on an error is `lose`, from the state the failed call leaves. -/
theorem failedWriteLosesTheConnection : Obligations.FailedWriteLosesTheConnection := by
  intro s n hp hc hr hw
  obtain ⟨s1, he, -, hrss, hcur, -, hin, hcalls, hline⟩ :=
    State.writePhase_error (s := s.envMove) (by rw [s.envMove_cur]; exact hr) hw
  rw [s.envMove_commandFrame, s.commandFrame_eq_listing] at hcalls hline
  rw [s.envMove_rss] at hrss
  rw [s.envMove_cur] at hcur
  obtain ⟨hclosed, -, hidle, hres, hrx, htx, hlline, hlcalls, hlin⟩ := s1.lose_facts .communicationError
  refine ⟨_, _, rfl, (step_write hp hc).trans (congrArg _ he), hclosed, ?_, hidle, hres, ?_, hrx, htx, ?_, ?_⟩
  · rw [← hrss, ← hcur]
    exact s1.entrySet_lose _
  · rw [hlcalls, hcalls, s.envMove_calls, List.append_assoc]
    rfl
  · rw [hlin, hin, s.envMove_inbox]
  · rw [hlline, hline]

/-- `s1` is what an accepted `TS.WRITE` of the frame `f` leaves in phase `WRITE` of `s`, after the environment's move. -/
structure AcceptedWrite (s s1 : State) (f : Frame) : Prop where
  rss   : s1.rss = s.rss
  conn  : s1.conn = s.conn
  cur   : s1.cur = s.cur
  inbox : s1.inbox = s.inbox
  calls : s1.calls = s.calls ++ [.write f]
  rxBuf : s1.rxBuf = s.envMove.rxBuf
  line  : s1.line = s.envMove.line
  txBuf : s1.txBuf = s.envMove.txBuf ++ f.bytes
  env   : s1.env = s.envMove.env.takeWrite.2

/-- Phase `WRITE` where the TS answers `Ok`: on to `READ` if a response is awaited, else the end (R138, R140). -/
theorem step_write_ok {s : State} (hp : s.phase = .write) (hc : s.conn ≠ .closed) (hr : isRelayAddress s.cur.relay = true)
    (hw : s.envMove.env.takeWrite.1 = .ok) : ∃ s1 : State,
      step s = .next (if awaits s.cur.action s.cur.expect then s1.goTo .read else s1.optimistic.finish .sent) ∧
      AcceptedWrite s s1 (Listing.frame s.cur.relay (Listing.opcode s.cur.action s.cur.expect)) := by
  obtain ⟨s1, he, hconn, hrss, hcur, -, hrx, hin, hcalls, hline, htx, henv⟩ :=
    State.writePhase_ok (s := s.envMove) (by rw [s.envMove_cur]; exact hr) hw
  rw [s.envMove_commandFrame, s.commandFrame_eq_listing] at hcalls htx
  rw [s.envMove_cur] at he hcur
  exact ⟨s1, (step_write hp hc).trans (congrArg _ he), hrss.trans s.envMove_rss, hconn.trans s.envMove_conn, hcur,
    hin.trans s.envMove_inbox, hcalls.trans (by rw [s.envMove_calls]), hrx, hline, htx, henv⟩

theorem State.optimistic_turnOn {s : State} (h : s.cur.action = .turnOn) : s.optimistic = s.rssWrite s.cur.relay .on := by
  simp only [optimistic, h]

theorem State.optimistic_turnOff {s : State} (h : s.cur.action = .turnOff) : s.optimistic = s.rssWrite s.cur.relay .off := by
  simp only [optimistic, h]

theorem State.optimistic_toggle {s : State} (h : s.cur.action = .toggle) : s.optimistic = s := by
  simp only [optimistic, h]

/-- Settles O39: no response is awaited, and the optimistic update of either action is one write. -/
theorem sentCommandSetsTheOptimisticEntry : Obligations.SentCommandSetsTheOptimisticEntry := by
  intro s hp hc hr hw hexp hact
  obtain ⟨s1, hstep, h1⟩ := step_write_ok hp hc hr hw
  have hawaits : ¬ awaits s.cur.action s.cur.expect = true := by rcases hact with ha | ha <;> rw [ha, hexp] <;> decide
  rw [if_neg hawaits] at hstep
  rw [hexp] at h1
  have hopt : ∃ v, s1.optimistic = s1.rssWrite s1.cur.relay v ∧ (s.cur.action = .turnOn → v = .on) ∧
      (s.cur.action = .turnOff → v = .off) := by
    rcases hact with ha | ha
    · exact ⟨.on, State.optimistic_turnOn (h1.cur ▸ ha), fun _ => rfl, by simp [ha]⟩
    · exact ⟨.off, State.optimistic_turnOff (h1.cur ▸ ha), by simp [ha], fun _ => rfl⟩
  obtain ⟨v, hwrite, hon, hoff⟩ := hopt
  rw [hwrite] at hstep
  have hset : EntrySet s.rss ((s1.rssWrite s1.cur.relay v).finish .sent).rss s.cur.relay v := by
    rw [← h1.rss, ← h1.cur]
    exact s1.entrySet_write_finish _ _ _
  exact ⟨_, _, rfl, hstep, fun ha => hon ha ▸ hset, fun ha => hoff ha ▸ hset, rfl, rfl, h1.calls, h1.conn, h1.rxBuf,
    h1.inbox, h1.line, h1.txBuf⟩

/-- Settles O40: no response is awaited, and a toggle has no optimistic update. -/
theorem sentToggleLeavesTheTable : Obligations.SentToggleLeavesTheTable := by
  intro s hp hc hr hw hexp hact
  obtain ⟨s1, hstep, h1⟩ := step_write_ok hp hc hr hw
  rw [hexp, hact] at hstep h1
  rw [if_neg (by decide), State.optimistic_toggle (h1.cur ▸ hact)] at hstep
  exact ⟨_, hstep, h1.rss, rfl, rfl, h1.calls, h1.conn, h1.rxBuf, h1.inbox, h1.line, h1.txBuf⟩

theorem awaits_iff {action : Action} {expect : Bool} :
    awaits action expect = true ↔ expect = true ∨ action = .queryStatus := by
  rw [awaits, Bool.or_eq_true, beq_iff_eq]

/-- Phase `WRITE` where a response is awaited: the accepted write, then phase `READ` with no result yet (R140). -/
theorem step_write_awaited {s : State} (hp : s.phase = .write) (hc : s.conn ≠ .closed)
    (hr : isRelayAddress s.cur.relay = true) (hw : s.envMove.env.takeWrite.1 = .ok)
    (ha : s.cur.expect = true ∨ s.cur.action = .queryStatus) : ∃ s1 : State,
      step s = .next (s1.goTo .read) ∧
      AcceptedWrite s s1 (Listing.frame s.cur.relay (Listing.opcode s.cur.action s.cur.expect)) := by
  obtain ⟨s1, hstep, h1⟩ := step_write_ok hp hc hr hw
  rw [if_pos (awaits_iff.2 ha)] at hstep
  exact ⟨s1, hstep, h1⟩

/-- Settles O41: the phase changes and the result is taken away; the rest is what the accepted write left. -/
theorem awaitedCommandGoesOnToRead : Obligations.AwaitedCommandGoesOnToRead := by
  intro s hp hc hr hw ha
  obtain ⟨s1, hstep, h1⟩ := step_write_awaited hp hc hr hw ha
  exact ⟨_, _, rfl, hstep, rfl, rfl, h1.rss, h1.cur, h1.conn, h1.calls, h1.rxBuf, h1.inbox, h1.line, h1.txBuf⟩

/-! ## Phase READ -/

theorem State.tsRead_phase (s : State) (timeout : Nat) : (s.tsRead timeout).2.phase = s.phase := by
  rcases s.tsRead_cases timeout with ⟨bs, -, he⟩ | ⟨-, he⟩ <;> rw [he] <;> rfl

theorem decodeFrame_mkFrame (addr code : Byte) :
    decodeFrame (mkFrame addr code).bytes = .ok (addr, stateOf code, code) := by
  simp only [decodeFrame, checkFrame_mkFrame, mkFrame_addr, mkFrame_op]

/-- Phase `READ` on a well-formed frame is SEQ's answer to its address and status code (R145). -/
theorem State.readPhase_mkFrame {s s1 : State} {addr code : Byte}
    (h : s.tsRead Config.readTimeout = (some (mkFrame addr code).bytes, s1)) :
    s.readPhase = s1.statusReceived addr (stateOf code) code := by
  have hdec : decodeFrame [0xA0#8, addr, code, 0xA0#8 + addr + code] = .ok (addr, stateOf code, code) :=
    decodeFrame_mkFrame addr code
  rw [mkFrame_bytes] at h
  simp only [readPhase, h, hdec]

/-- Settles O24: bytes that decode are a well-formed frame; on it the read phase and, in phase `READ`, the response instruction
both are SEQ's answer. -/
theorem readPhaseRunsTheReceivedResponse : Obligations.ReadPhaseRunsTheReceivedResponse := by
  intro s s1 bytes i hp hc hread hd
  obtain ⟨f, rfl, ⟨hdir, -⟩ | ⟨-, rfl⟩⟩ := decode_frame_ok hd
  · cases hdir
  have hp1 : s1.phase = .read := by
    have hphase := s.envMove.tsRead_phase Config.readTimeout
    rwa [hread, s.envMove_phase, hp] at hphase
  rw [step_read hp hc, exec_responseOf, State.readPhase_mkFrame hread, State.response, hp1]

/-- Settles O42: the end of `READ` on an error is `lose`, from the state the failed call leaves. -/
theorem readErrorLosesTheConnection : Obligations.ReadErrorLosesTheConnection := by
  intro s hp hc hr
  obtain ⟨s1, he, -, hrss, hcur, -, hin, hcalls, hline⟩ := State.readPhase_error (s := s.envMove) hr
  rw [s.envMove_rss] at hrss
  rw [s.envMove_cur] at hcur
  obtain ⟨hclosed, -, hidle, hres, hrx, htx, hlline, hlcalls, hlin⟩ := s1.lose_facts .connectionLost
  refine ⟨_, (step_read hp hc).trans (congrArg _ he), hclosed, ?_, hidle, hres, ?_, hrx, htx, ?_, ?_⟩
  · rw [← hrss, ← hcur]
    exact s1.entrySet_lose _
  · rw [hlcalls, hcalls, s.envMove_calls, List.append_assoc]
    rfl
  · rw [hlin, hin, s.envMove_inbox]
  · rw [hlline, hline]

/-- What phase `READ` makes of the bytes read, on the state `s` that the call leaves (R143 to R146). -/
def State.answered (s : State) (bytes : ByteSeq) : State :=
  if bytes = [] then (s.invalidate s.cur.relay).finish .timeout
  else
    match decodeFrame bytes with
    | .error e => (s.invalidate s.cur.relay).finish (errorResult e)
    | .ok (addr, state, code) => s.statusReceived addr state code

/-- Whatever the bytes are, the answer ends the exchange and touches neither the session nor the port. -/
theorem State.answered_frame (s : State) (bytes : ByteSeq) :
    (s.answered bytes).phase = .idle ∧ (s.answered bytes).conn = s.conn ∧ (s.answered bytes).inbox = s.inbox ∧
    (s.answered bytes).calls = s.calls ∧ (s.answered bytes).rxBuf = s.rxBuf ∧ (s.answered bytes).line = s.line ∧
    (s.answered bytes).txBuf = s.txBuf := by
  unfold answered
  split
  · exact ⟨rfl, rfl, rfl, rfl, rfl, rfl, rfl⟩
  · split <;> exact ⟨rfl, rfl, rfl, rfl, rfl, rfl, rfl⟩

/-- Bytes that fail a check end the exchange with that check, and the commanded entry is `Unknown` (R144). -/
theorem State.answered_of_error {s : State} {bytes : ByteSeq} {e : DecodeError} (hne : bytes ≠ [])
    (h : decodeFrame bytes = .error e) :
    s.answered bytes = (s.invalidate s.cur.relay).finish (errorResult e) := by
  rw [answered, if_neg hne, h]

/-- A well-formed answer writes the entry of its own address (R145, R146). -/
theorem State.answered_mkFrame (s : State) (addr code : Byte) :
    s.answered (mkFrame addr code).bytes =
      (s.rssWrite addr (Listing.entry code)).finish (.statusReceived addr (Listing.state code) code) := by
  rw [answered, if_neg (by rw [mkFrame_bytes]; simp), decodeFrame_mkFrame, stateOf_eq_listing, ← narrow_listing_state]
  rfl

/-- Phase `READ` where bytes arrive: `s1` is the state that call leaves, the environment having moved. -/
theorem step_read_arrived {s : State} {arrived : ByteSeq} (hp : s.phase = .read) (hc : s.conn ≠ .closed)
    (hr : s.envMove.env.takeRead.1 = .arrived arrived) : ∃ s1 : State,
      step s = .next (s1.answered ((s.envMove.rxBuf ++ arrived).take 4)) ∧
      s1.rss = s.rss ∧ s1.cur = s.cur ∧ s1.conn = s.conn ∧ s1.inbox = s.inbox ∧
      s1.calls = s.calls ++ [.read Config.readTimeout] ∧ s1.rxBuf = (s.envMove.rxBuf ++ arrived).drop 4 ∧
      s1.line = s.envMove.line ∧ s1.txBuf = s.envMove.txBuf := by
  obtain ⟨s1, he, hrss, hcur, hconn, hin, hcalls, hrx, hline, htx⟩ := State.readPhase_arrived hr
  refine ⟨s1, (step_read hp hc).trans (congrArg _ (he.trans ?_)), hrss.trans s.envMove_rss, hcur.trans s.envMove_cur,
    hconn.trans s.envMove_conn, hin.trans s.envMove_inbox, hcalls.trans (by rw [s.envMove_calls]), hrx, hline, htx⟩
  cases (s.envMove.rxBuf ++ arrived).take 4 <;> rfl

/-- Settles O43: what becomes of the bytes is `answered`, by the check of DEC they fail or the frame they are. -/
theorem readBytesAreClassified : Obligations.ReadBytesAreClassified := by
  intro s arrived hp hc hr
  obtain ⟨s1, hstep, hrss, hcur, hconn, hin, hcalls, hrx, hline, htx⟩ := step_read_arrived hp hc hr
  generalize s.envMove.rxBuf ++ arrived = unread at *
  obtain ⟨hidle, hconn', hin', hcalls', hrx', hline', htx'⟩ := s1.answered_frame (unread.take 4)
  have invalidated (r : Result) : EntrySet s.rss ((s1.invalidate s1.cur.relay).finish r).rss s.cur.relay .unknown := by
    rw [← hrss, ← hcur]
    exact s1.entrySet_invalidate_finish _ r
  refine ⟨_, hstep, hidle, hconn'.trans hconn, hin'.trans hin, hcalls'.trans hcalls, hrx'.trans hrx, hline'.trans hline,
    htx'.trans htx, fun hnone => ?_, fun hlo hhi => ?_, fun b0 b1 b2 b3 hfour => ?_⟩
  · rw [hnone]
    exact ⟨rfl, invalidated _⟩
  · have hlen : (unread.take 4).length = unread.length := by rw [List.length_take]; omega
    have hne : unread.take 4 ≠ [] := fun h => by rw [h] at hlen; simp at hlen; omega
    rw [State.answered_of_error hne (decodeFrame_length (by omega))]
    exact ⟨rfl, invalidated _⟩
  · rw [hfour]
    refine ⟨fun hsum => ?_, fun hsum hhdr => ?_, fun hsum hhdr => ?_⟩
    · have hdec : decodeFrame [b0, b1, b2, b3] = .error .checksumError := by rw [decodeFrame_four, if_pos hsum]
      rw [State.answered_of_error (by simp) hdec]
      exact ⟨rfl, invalidated _⟩
    · have hdec : decodeFrame [b0, b1, b2, b3] = .error .headerError := by
        rw [decodeFrame_four, if_neg (not_not_intro hsum), if_pos hhdr]
      rw [State.answered_of_error (by simp) hdec]
      exact ⟨rfl, invalidated _⟩
    · rw [hsum, hhdr, ← mkFrame_bytes, State.answered_mkFrame, ← hrss]
      exact ⟨rfl, s1.entrySet_write_finish _ _ _⟩

end Sys2Proof.Machine
end

section
/-! PROOFS. The whole exchange (R147, R151, R152): from each phase, and from a request at the port, a run ends as the listing says.
The listing is followed backwards, from `READ` to the request, each phase by the statements about it. -/

namespace Sys2Proof.Machine

/-! ## The listing, case by case -/

theorem EntrySet.read_eq_set {m m' : Memory} {a : Byte} {v : RelayState} (h : EntrySet m m' a v) (b : Byte) :
    m'.read b = Listing.set m.read a v b := by
  unfold Listing.set
  split
  · next hb => rw [hb, h.1]
  · next hb => exact h.2 b hb

/-- The listing's range test is that of a relay address. -/
theorem not_outOfRange {relay : Byte} (hr : isRelayAddress relay = true) : ¬ (relay.toNat < 1 ∨ relay.toNat > 254) := by
  have hok : 1 ≤ relay.toNat ∧ relay.toNat ≤ 254 := of_decide_eq_true hr
  omega

section
variable (T : Byte → RelayState) {conn : ConnectionState} {relay : Byte} (action : Action) (expect : Bool)
  (w : WriteAnswer) (r : ReadAnswer)

theorem listing_execute_badAddress (hr : isRelayAddress relay = false) :
    Listing.execute T conn relay action expect w r = ⟨T, conn, .invalidAddress relay, []⟩ := by
  have hbad : ¬ (1 ≤ relay.toNat ∧ relay.toNat ≤ 254) := of_decide_eq_false hr
  rw [Listing.execute, if_pos (by omega)]

theorem listing_execute_closed (hr : isRelayAddress relay = true) :
    Listing.execute T .closed relay action expect w r = ⟨T, .closed, .notConnected, []⟩ := by
  rw [Listing.execute, if_neg (not_outOfRange hr), if_pos rfl]

theorem listing_execute_writeError (n : Nat) (hr : isRelayAddress relay = true) (hc : conn ≠ .closed) :
    Listing.execute T conn relay action expect (.error n) r =
      ⟨Listing.set T relay .unknown, .closed, .communicationError,
        [.flush, .write (Listing.frame relay (Listing.opcode action expect)), .close]⟩ := by
  rw [Listing.execute, if_neg (not_outOfRange hr), if_neg hc]

theorem listing_execute_turnOn (hr : isRelayAddress relay = true) (hc : conn ≠ .closed) :
    Listing.execute T conn relay .turnOn false .ok r =
      ⟨Listing.set T relay .on, conn, .sent, [.flush, .write (Listing.frame relay (Listing.opcode .turnOn false))]⟩ := by
  rw [Listing.execute, if_neg (not_outOfRange hr), if_neg hc]

theorem listing_execute_turnOff (hr : isRelayAddress relay = true) (hc : conn ≠ .closed) :
    Listing.execute T conn relay .turnOff false .ok r =
      ⟨Listing.set T relay .off, conn, .sent, [.flush, .write (Listing.frame relay (Listing.opcode .turnOff false))]⟩ := by
  rw [Listing.execute, if_neg (not_outOfRange hr), if_neg hc]

theorem listing_execute_toggle (hr : isRelayAddress relay = true) (hc : conn ≠ .closed) :
    Listing.execute T conn relay .toggle false .ok r =
      ⟨T, conn, .sent, [.flush, .write (Listing.frame relay 0x04#8)]⟩ := by
  rw [Listing.execute, if_neg (not_outOfRange hr), if_neg hc]
  rfl

theorem listing_execute_awaited (hr : isRelayAddress relay = true) (hc : conn ≠ .closed)
    (ha : expect = true ∨ action = .queryStatus) :
    Listing.execute T conn relay action expect .ok r =
      Listing.answer T conn relay
        [.flush, .write (Listing.frame relay (Listing.opcode action expect)), .read Config.readTimeout] r := by
  rw [Listing.execute, if_neg (not_outOfRange hr), if_neg hc]
  rcases ha with rfl | rfl
  · cases action <;> rfl
  · cases expect <;> rfl

end

/-- Fewer than four bytes, but some: the length check fails (R167). -/
theorem listing_answer_short (T : Byte → RelayState) (conn : ConnectionState) (relay : Byte) (calls : List TsCall)
    {bs : ByteSeq} (hlo : 1 ≤ bs.length) (hhi : bs.length ≤ 3) :
    Listing.answer T conn relay calls (.arrived bs) = ⟨Listing.set T relay .unknown, conn, .lengthError, calls⟩ := by
  match bs with
  | [] => simp at hlo
  | [_] | [_, _] | [_, _, _] => rfl
  | _ :: _ :: _ :: _ :: _ => simp only [List.length_cons] at hhi; omega

/-- The first four bytes of a sequence: none, some but not four of them, or four. -/
theorem take_four_cases (bs : ByteSeq) :
    bs.take 4 = [] ∨ (1 ≤ bs.length ∧ bs.length ≤ 3) ∨ ∃ b0 b1 b2 b3, bs.take 4 = [b0, b1, b2, b3] := by
  match bs with
  | [] => exact .inl rfl
  | [_] | [_, _] | [_, _, _] => exact .inr (.inl ⟨by simp, by simp⟩)
  | b0 :: b1 :: b2 :: b3 :: _ => exact .inr (.inr ⟨b0, b1, b2, b3, rfl⟩)

/-! ## The results of R130 -/

/-- What an accepted exchange returns. -/
def ReturnsAResult (o : Option Result) : Prop :=
  o = some .communicationError ∨ o = some .sent ∨ o = some .timeout ∨ o = some .connectionLost ∨ o = some .lengthError ∨
    o = some .checksumError ∨ o = some .headerError ∨ ∃ a st c, o = some (.statusReceived a st c)

theorem listing_answer_returns (T : Byte → RelayState) (conn : ConnectionState) (relay : Byte) (calls : List TsCall)
    (r : ReadAnswer) : ReturnsAResult (some (Listing.answer T conn relay calls r).result) := by
  cases r with
  | error => simp [ReturnsAResult, Listing.answer]
  | arrived bs =>
    rw [Listing.answer]
    split
    · simp [ReturnsAResult]
    · split
      · simp [ReturnsAResult]
      · split <;> simp [ReturnsAResult]
    · simp [ReturnsAResult]

theorem listing_execute_returns (T : Byte → RelayState) {conn : ConnectionState} {relay : Byte} (action : Action)
    (expect : Bool) (w : WriteAnswer) (r : ReadAnswer) (hr : isRelayAddress relay = true) (hc : conn ≠ .closed) :
    ReturnsAResult (some (Listing.execute T conn relay action expect w r).result) := by
  rw [Listing.execute, if_neg (not_outOfRange hr), if_neg hc]
  cases w with
  | error n => exact .inl rfl
  | ok =>
    dsimp only
    split
    · exact .inr (.inl rfl)
    · exact .inr (.inl rfl)
    · exact .inr (.inl rfl)
    · exact listing_answer_returns _ _ _ _ _

/-! ## The answers a run meets -/

/-- `r` is the answer a read meets: the first of `reads`, with bytes of which `Early` holds before those that arrive with it;
any where none is listed. -/
def Heard (reads : List ReadAnswer) (Early : ByteSeq → Prop) (r : ReadAnswer) : Prop :=
  (∀ rs, reads = .error :: rs → r = .error) ∧
  ∀ bs rs, reads = .arrived bs :: rs → ∃ early, r = .arrived (early ++ bs) ∧ Early early

theorem Heard.imp {reads : List ReadAnswer} {Early Early' : ByteSeq → Prop} {r : ReadAnswer} (h : Heard reads Early r)
    (himp : ∀ early, Early early → Early' early) : Heard reads Early' r :=
  ⟨h.1, fun bs rs hreads => (h.2 bs rs hreads).imp fun early ⟨hr, he⟩ => ⟨hr, himp early he⟩⟩

/-- A run that makes no read meets any answer, so also one that the list allows. -/
theorem exists_heard (reads : List ReadAnswer) {Early : ByteSeq → Prop} {early : ByteSeq} (he : Early early) :
    ∃ r, Heard reads Early r := by
  match reads with
  | [] | .error :: _ => exact ⟨.error, fun _ _ => rfl, fun _ _ h => by cases h⟩
  | .arrived bs :: _ =>
    exact ⟨.arrived (early ++ bs), fun _ h => by (cases h), fun _ _ h => ⟨early, by cases h; rfl, he⟩⟩

/-- What was unread and all that came in before the answer was taken. -/
theorem heard_arrived {s : State} {arrived : ByteSeq} (h : s.envMove.env.takeRead.1 = .arrived arrived) :
    Heard s.env.reads (· = s.envMove.rxBuf) (.arrived (s.envMove.rxBuf ++ arrived)) := by
  refine ⟨fun rs hreads => ?_, fun bs rs hreads => ⟨_, ?_, rfl⟩⟩
  · rw [Env.takeRead_cons ((s.envMove_reads).trans hreads)] at h
    cases h
  · rw [Env.takeRead_cons ((s.envMove_reads).trans hreads)] at h
    cases h
    rfl

theorem heard_error {s : State} {Early : ByteSeq → Prop} (h : s.envMove.env.takeRead.1 = .error) :
    Heard s.env.reads Early .error := by
  refine ⟨fun _ _ => rfl, fun bs rs hreads => ?_⟩
  rw [Env.takeRead_cons ((s.envMove_reads).trans hreads)] at h
  cases h

/-! ## From each phase to the end -/

/-- From `s` to `t` an exchange ends as `x` says, where `x` lists the TS calls from the start and `made` are those before `s`. -/
structure EndsAs (made : List TsCall) (s t : State) (x : Listing.Exchange) : Prop where
  idle   : t.phase = .idle
  inbox  : t.inbox = s.inbox
  table  : ∀ a, t.rss.read a = x.table a
  conn   : t.conn = x.conn
  result : t.result = some x.result
  calls  : ∃ new, t.calls = s.calls ++ new ∧ x.calls = made ++ new

/-- A step before, which made the calls `cs`. -/
theorem EndsAs.after {made cs : List TsCall} {s s1 t : State} {x : Listing.Exchange} (h : EndsAs (made ++ cs) s1 t x)
    (hin : s1.inbox = s.inbox) (hcalls : s1.calls = s.calls ++ cs) : EndsAs made s t x := by
  obtain ⟨new, hnew, hx⟩ := h.calls
  exact ⟨h.idle, h.inbox.trans hin, h.table, h.conn, h.result, cs ++ new, by rw [hnew, hcalls, List.append_assoc],
    by rw [hx, List.append_assoc]⟩

/-- The step of phase `READ` where bytes arrive ends as the listing's last part says (R143 to R146). -/
theorem step_read_arrived_endsAs {s : State} {arrived : ByteSeq} (made : List TsCall) (hp : s.phase = .read)
    (hc : s.conn ≠ .closed) (hr : s.envMove.env.takeRead.1 = .arrived arrived) :
    ∃ t, step s = .next t ∧ EndsAs made s t (Listing.answer s.rss.read s.conn s.cur.relay
      (made ++ [.read Config.readTimeout]) (.arrived (s.envMove.rxBuf ++ arrived))) := by
  obtain ⟨t, hstep, hidle, hconn, hin, hcalls, -, -, -, hnone, hshort, hfour⟩ :=
    readBytesAreClassified s arrived hp hc hr
  generalize s.envMove.rxBuf ++ arrived = unread at *
  have ends {a : Byte} {v : RelayState} {res : Result} (h : t.result = some res ∧ EntrySet s.rss t.rss a v) :
      EndsAs made s t ⟨Listing.set s.rss.read a v, s.conn, res, made ++ [.read Config.readTimeout]⟩ :=
    ⟨hidle, hin, h.2.read_eq_set, hconn, h.1, _, hcalls, rfl⟩
  refine ⟨t, hstep, ?_⟩
  rcases take_four_cases unread with htake | ⟨hlo, hhi⟩ | ⟨b0, b1, b2, b3, htake⟩
  · simp only [Listing.answer, htake]
    exact ends (hnone htake)
  · rw [listing_answer_short _ _ _ _ hlo hhi]
    exact ends (hshort hlo hhi)
  · obtain ⟨hbadSum, hbadHeader, hgood⟩ := hfour b0 b1 b2 b3 htake
    simp only [Listing.answer, htake]
    split
    · next hsum => exact ends (hbadSum hsum)
    · next hsum =>
      have hsum : b3 = b0 + b1 + b2 := not_not.1 hsum
      split
      · next hhdr => exact ends (hbadHeader hsum hhdr)
      · next hhdr => exact ends (hgood hsum (not_not.1 hhdr))

/-- The step of phase `READ` ends as the listing's last part says, for the answer the read meets. -/
theorem step_read_endsAs {s : State} (made : List TsCall) (hp : s.phase = .read) (hc : s.conn ≠ .closed) :
    ∃ r t, step s = .next t ∧
      EndsAs made s t (Listing.answer s.rss.read s.conn s.cur.relay (made ++ [.read Config.readTimeout]) r) ∧
      Heard s.env.reads (· = s.envMove.rxBuf) r := by
  cases hr : s.envMove.env.takeRead.1 with
  | error =>
    obtain ⟨t, hstep, hconn, hset, hidle, hres, hcalls, -, -, hin, -⟩ := readErrorLosesTheConnection s hp hc hr
    exact ⟨.error, t, hstep, ⟨hidle, hin, hset.read_eq_set, hconn, hres, _, hcalls, List.append_assoc _ _ _⟩,
      heard_error hr⟩
  | arrived arrived =>
    obtain ⟨t, hstep, hends⟩ := step_read_arrived_endsAs made hp hc hr
    exact ⟨_, t, hstep, hends, heard_arrived hr⟩

/-- The step of phase `WRITE` where the TS answers `WriteError` ends as the listing says, whatever a read would meet (R137). -/
theorem step_write_failed_endsAs {s : State} {n : Nat} (r : ReadAnswer) (hp : s.phase = .write) (hc : s.conn ≠ .closed)
    (hr : isRelayAddress s.cur.relay = true) (hw : s.envMove.env.takeWrite.1 = .error n) :
    ∃ t, step s = .next t ∧
      EndsAs [.flush] s t (Listing.execute s.rss.read s.conn s.cur.relay s.cur.action s.cur.expect (.error n) r) := by
  obtain ⟨t, f, rfl, hstep, hconn, hset, hidle, hres, hcalls, -, -, hin, -⟩ :=
    failedWriteLosesTheConnection s n hp hc hr hw
  refine ⟨t, hstep, ?_⟩
  rw [listing_execute_writeError _ _ _ _ _ hr hc]
  exact ⟨hidle, hin, hset.read_eq_set, hconn, hres, _, hcalls, rfl⟩

/-- The step of phase `WRITE` where no response is awaited ends as the listing says, whatever a read would meet (R138, R139). -/
theorem step_write_sent_endsAs {s : State} (r : ReadAnswer) (hp : s.phase = .write) (hc : s.conn ≠ .closed)
    (hr : isRelayAddress s.cur.relay = true) (hw : s.envMove.env.takeWrite.1 = .ok)
    (ha : ¬ (s.cur.expect = true ∨ s.cur.action = .queryStatus)) :
    ∃ t, step s = .next t ∧
      EndsAs [.flush] s t (Listing.execute s.rss.read s.conn s.cur.relay s.cur.action s.cur.expect .ok r) := by
  obtain ⟨hexp, hquery⟩ := not_or.1 ha
  have hexp : s.cur.expect = false := Bool.not_eq_true _ ▸ hexp
  rw [hexp]
  cases hact : s.cur.action with
  | turnOn =>
    obtain ⟨t, f, rfl, hstep, hon, -, hidle, hres, hcalls, hconn, -, hin, -⟩ :=
      sentCommandSetsTheOptimisticEntry s hp hc hr hw hexp (.inl hact)
    rw [hact] at hcalls
    rw [listing_execute_turnOn _ _ hr hc]
    exact ⟨t, hstep, hidle, hin, (hon hact).read_eq_set, hconn, hres, _, hcalls, rfl⟩
  | turnOff =>
    obtain ⟨t, f, rfl, hstep, -, hoff, hidle, hres, hcalls, hconn, -, hin, -⟩ :=
      sentCommandSetsTheOptimisticEntry s hp hc hr hw hexp (.inr hact)
    rw [hact] at hcalls
    rw [listing_execute_turnOff _ _ hr hc]
    exact ⟨t, hstep, hidle, hin, (hoff hact).read_eq_set, hconn, hres, _, hcalls, rfl⟩
  | toggle =>
    obtain ⟨t, hstep, hrss, hidle, hres, hcalls, hconn, -, hin, -⟩ := sentToggleLeavesTheTable s hp hc hr hw hexp hact
    rw [listing_execute_toggle _ _ hr hc]
    exact ⟨t, hstep, hidle, hin, fun _ => by rw [hrss], hconn, hres, _, hcalls, rfl⟩
  | queryStatus => exact absurd hact hquery

/-- Of what is unread when a read is answered, seen from phase `WRITE`: what was unread there, and what the two steps' moves
bring in. -/
def EarlyFromWrite (s : State) (early : ByteSeq) : Prop :=
  ∀ a a' as, s.env.arrivals = a :: a' :: as → early = s.rxBuf ++ a ++ a'

/-- An accepted write leaves the answers to reads and the bytes still to come as they were. -/
theorem AcceptedWrite.early {s s1 : State} {f : Frame} (h : AcceptedWrite s s1 f) (hc : s.conn ≠ .closed) :
    s1.env.reads = s.env.reads ∧ EarlyFromWrite s (s1.goTo .read).envMove.rxBuf := by
  refine ⟨by rw [h.env, Env.takeWrite_reads, s.envMove_reads], fun a a' as harr => ?_⟩
  obtain ⟨hrx, hleft⟩ := s.envMove_arrivals hc harr
  have hnext : (s1.goTo .read).env.arrivals = a' :: as := by
    rw [State.goTo_env, h.env, Env.takeWrite_arrivals, hleft]
  obtain ⟨hrx', -⟩ := (s1.goTo .read).envMove_arrivals (h.conn ▸ hc) hnext
  rw [hrx', State.goTo_rxBuf, h.rxBuf, hrx]

/-- From phase `WRITE` where a response is awaited, the exchange ends in two steps as the listing says (R140 to R146). -/
theorem run_write_awaited_endsAs {s : State} (hp : s.phase = .write) (hc : s.conn ≠ .closed)
    (hr : isRelayAddress s.cur.relay = true) (hw : s.envMove.env.takeWrite.1 = .ok)
    (ha : s.cur.expect = true ∨ s.cur.action = .queryStatus) :
    ∃ r t, Host.Core.run core 2 s = .next t ∧
      EndsAs [.flush] s t (Listing.execute s.rss.read s.conn s.cur.relay s.cur.action s.cur.expect .ok r) ∧
      Heard s.env.reads (EarlyFromWrite s) r := by
  obtain ⟨s1, hstep, h1⟩ := step_write_awaited hp hc hr hw ha
  obtain ⟨hreads, hearly⟩ := h1.early hc
  obtain ⟨r, t, hstep', hends, hheard⟩ := step_read_endsAs (s := s1.goTo .read)
    ([.flush] ++ [.write (Listing.frame s.cur.relay (Listing.opcode s.cur.action s.cur.expect))]) rfl (h1.conn ▸ hc)
  refine ⟨r, t, (run_next hstep).trans (run_next hstep'), ?_, ?_⟩
  · rw [listing_execute_awaited _ _ _ _ hr hc ha, ← h1.rss, ← h1.conn]
    rw [State.goTo_cur, h1.cur] at hends
    exact EndsAs.after (s1 := s1.goTo .read) hends h1.inbox h1.calls
  · rw [← hreads]
    exact hheard.imp fun early he => he ▸ hearly

/-- From phase `WRITE` an exchange ends in at most two steps, as the listing says from its write on. -/
theorem run_write_endsAs {s : State} (hp : s.phase = .write) (hc : s.conn ≠ .closed)
    (hr : isRelayAddress s.cur.relay = true) :
    ∃ r k t, k ≤ 2 ∧ Host.Core.run core k s = .next t ∧
      EndsAs [.flush] s t (Listing.execute s.rss.read s.conn s.cur.relay s.cur.action s.cur.expect
        s.envMove.env.takeWrite.1 r) ∧
      Heard s.env.reads (EarlyFromWrite s) r := by
  have hearly : EarlyFromWrite s (s.rxBuf ++ s.env.arrivals.getD 0 [] ++ s.env.arrivals.getD 1 []) := by
    intro a a' as h
    rw [h]
    rfl
  obtain ⟨r, hheard⟩ := exists_heard s.env.reads hearly
  cases hw : s.envMove.env.takeWrite.1 with
  | error n =>
    obtain ⟨t, hstep, hends⟩ := step_write_failed_endsAs r hp hc hr hw
    exact ⟨r, 1, t, by decide, run_next hstep, hends, hheard⟩
  | ok =>
    by_cases ha : s.cur.expect = true ∨ s.cur.action = .queryStatus
    · obtain ⟨r', t, hrun, hends, hheard'⟩ := run_write_awaited_endsAs hp hc hr hw ha
      exact ⟨r', 2, t, le_rfl, hrun, hends, hheard'⟩
    · obtain ⟨t, hstep, hends⟩ := step_write_sent_endsAs r hp hc hr hw ha
      exact ⟨r, 1, t, by decide, run_next hstep, hends, hheard⟩

/-- Seen from phase `FLUSH`, what was unread is thrown away, with what the flush's own step brings in (R135). -/
def EarlyFromFlush (s : State) (early : ByteSeq) : Prop :=
  ∀ a0 a a' as, s.env.arrivals = a0 :: a :: a' :: as → early = a ++ a'

/-- `w` is the answer a write meets: the first listed, any where none is listed. -/
def WriteMet (s : State) (w : WriteAnswer) : Prop := ∀ w' ws, s.env.writes = w' :: ws → w = w'

theorem writeMet_takeWrite {s : State} {e : Env} (h : e.writes = s.env.writes) : WriteMet s e.takeWrite.1 := by
  intro w' ws hws
  rw [Env.takeWrite_cons (h.trans hws)]

/-- From phase `FLUSH` an exchange ends in at most three steps, as the listing says. -/
theorem run_flush_endsAs {s : State} (hp : s.phase = .flush) (hc : s.conn ≠ .closed)
    (hr : isRelayAddress s.cur.relay = true) :
    ∃ w r k t, k ≤ 3 ∧ Host.Core.run core k s = .next t ∧
      EndsAs [] s t (Listing.execute s.rss.read s.conn s.cur.relay s.cur.action s.cur.expect w r) ∧
      WriteMet s w ∧ Heard s.env.reads (EarlyFromFlush s) r := by
  obtain ⟨r, k, t, hk, hrun, hends, hheard⟩ := run_write_endsAs (s := s.envMove.tsFlush.goTo .write) rfl
    (by simpa using hc) (by simpa using hr)
  simp only [State.goTo_rss, State.goTo_conn, State.goTo_cur, State.goTo_env, State.tsFlush_rss, State.tsFlush_conn,
    State.tsFlush_cur, State.tsFlush_env, State.envMove_rss, State.envMove_conn, State.envMove_cur,
    State.envMove_reads] at hends hheard
  refine ⟨_, r, k + 1, t, by omega, (run_next (step_flush hp hc)).trans hrun,
    EndsAs.after (made := []) (s1 := s.envMove.tsFlush.goTo .write) hends (by simp) (by simp), writeMet_takeWrite (by simp),
    hheard.imp fun early he a0 a a' as harr => ?_⟩
  obtain ⟨-, hleft⟩ := s.envMove_arrivals hc harr
  exact he a a' as hleft

/-! ## Every accepted exchange returns -/

/-- Settles O45: from each busy phase the run ends as the listing says, and every result of the listing is one of R130. -/
theorem everyAcceptedExchangeReturns : Obligations.EveryAcceptedExchangeReturns := by
  intro s hinv hbusy
  have hc : s.conn ≠ .closed := hinv.conn hbusy
  have hr : isRelayAddress s.cur.relay = true := hinv.relay hbusy
  cases hp : s.phase with
  | idle => exact absurd hp hbusy
  | flush =>
    obtain ⟨w, r, k, t, hk, hrun, hends, -⟩ := run_flush_endsAs hp hc hr
    exact ⟨k, t, hk, hrun, hends.idle, hends.result ▸ listing_execute_returns _ _ _ w r hr hc⟩
  | write =>
    obtain ⟨r, k, t, hk, hrun, hends, -⟩ := run_write_endsAs hp hc hr
    exact ⟨k, t, by omega, hrun, hends.idle, hends.result ▸ listing_execute_returns _ _ _ _ r hr hc⟩
  | read =>
    obtain ⟨r, t, hstep, hends, -⟩ := step_read_endsAs [] hp hc
    exact ⟨1, t, by decide, run_next hstep, hends.idle, hends.result ▸ listing_answer_returns _ _ _ _ r⟩

/-! ## From the request to the result -/

theorem decode_encode_execute (relay : Byte) (action : Action) (expect : Bool) :
    decode (encode (.execute relay action expect)) = .ok (.execute relay action expect) :=
  decode_encode (.execute relay action expect) rfl

/-- Seen from a request at the port, the third and fourth step's moves bring in what is unread before the read's answer. -/
def EarlyFromRequest (s : State) (early : ByteSeq) : Prop :=
  ∀ a0 a1 a2 a3 as, s.env.arrivals = a0 :: a1 :: a2 :: a3 :: as → early = a2 ++ a3

/-- The answers a run of `EXECUTE` meets are those of its write and of its read. -/
theorem answers_iff {s : State} {w : WriteAnswer} {r : ReadAnswer} :
    Listing.Answers s w r ↔ WriteMet s w ∧ Heard s.env.reads (EarlyFromRequest s) r := Iff.rfl

/-- A run that makes no TS call meets any answers the environment may list. -/
theorem exists_answers (s : State) : ∃ w r, Listing.Answers s w r := by
  have hearly : EarlyFromRequest s (s.env.arrivals.getD 2 [] ++ s.env.arrivals.getD 3 []) := by
    intro a0 a1 a2 a3 as h
    rw [h]
    rfl
  obtain ⟨r, hheard⟩ := exists_heard s.env.reads hearly
  exact ⟨_, r, answers_iff.2 ⟨writeMet_takeWrite rfl, hheard⟩⟩

/-- A request refused at its acceptance ends in one step, with its result and nothing else (R132, R133). -/
theorem endsAs_raise (s : State) (rest : List Transaction) (res : Result) (hp : s.phase = .idle) :
    EndsAs [] { s with inbox := rest } (State.raise { s.envMove with inbox := rest } res)
      ⟨s.rss.read, s.conn, res, []⟩ :=
  ⟨s.envMove_phase.trans hp, rfl, fun _ => by simp, s.envMove_conn, rfl, [], by simp, rfl⟩

/-- From a request at the port an `EXECUTE` ends in at most four steps as its listing says, for the answers it meets. -/
theorem run_execute_endsAs {s : State} {relay : Byte} {action : Action} {expect : Bool} {rest : List Transaction}
    (hp : s.phase = .idle) (hin : s.inbox = encode (.execute relay action expect) :: rest) :
    ∃ w r k t, Listing.Answers s w r ∧ k ≤ 4 ∧ Host.Core.run core k s = .next t ∧
      EndsAs [] { s with inbox := rest } t (Listing.execute s.rss.read s.conn relay action expect w r) := by
  have hstep := step_idle_exec hp hin (decode_encode_execute relay action expect)
  have hp' : ({ s.envMove with inbox := rest } : State).phase = .idle := s.envMove_phase.trans hp
  obtain ⟨w, r, hans⟩ := exists_answers s
  cases hr : isRelayAddress relay with
  | false =>
    rw [exec_execute_badAddress action expect hp' hr] at hstep
    refine ⟨w, r, 1, _, hans, by decide, run_next hstep, ?_⟩
    rw [listing_execute_badAddress _ _ _ _ _ hr]
    exact endsAs_raise s rest _ hp
  | true =>
    by_cases hc : s.conn = .closed
    · rw [exec_execute_closed action expect hp' hr (s.envMove_conn.trans hc)] at hstep
      refine ⟨w, r, 1, _, hans, by decide, run_next hstep, ?_⟩
      have hends := endsAs_raise s rest .notConnected hp
      rw [hc] at hends ⊢
      rwa [listing_execute_closed _ _ _ _ _ hr]
    · rw [exec_execute_open action expect hp' hr (by simpa using hc)] at hstep
      obtain ⟨w, r, k, t, hk, hrun, hends, hw, hheard⟩ := run_flush_endsAs
        (s := State.goTo { s.envMove with inbox := rest, cur := ⟨relay, action, expect⟩ } .flush) rfl
        (by simpa using hc) hr
      simp only [State.goTo_rss, State.goTo_conn, State.goTo_cur, State.goTo_env, State.envMove_rss, State.envMove_conn,
        State.envMove_reads] at hends hheard
      refine ⟨w, r, k + 1, t, answers_iff.2 ⟨fun w' ws hws => hw w' ws (s.envMove_writes.trans hws),
        hheard.imp fun early he a0 a1 a2 a3 as harr => ?_⟩, by omega, (run_next hstep).trans hrun,
        EndsAs.after (made := []) (cs := []) hends rfl (by simp)⟩
      obtain ⟨-, hleft⟩ := s.envMove_arrivals hc harr
      exact he a1 a2 a3 as hleft

/-- What an exchange from no call on has recorded is what its listing lists. -/
theorem EndsAs.calls_eq {s t : State} {x : Listing.Exchange} (h : EndsAs [] s t x) : t.calls = s.calls ++ x.calls := by
  obtain ⟨new, hnew, hx⟩ := h.calls
  rw [hnew, hx, List.nil_append]

/-- Settles O46: the run ends as its listing says, in table, connection and result. -/
theorem executeFollowsItsListing : Obligations.ExecuteFollowsItsListing := by
  intro s relay action expect rest hp hin
  obtain ⟨w, r, k, t, hans, hk, hrun, hends⟩ := run_execute_endsAs hp hin
  exact ⟨w, r, k, t, hans, hk, hrun, hends.idle, hends.inbox, hends.table, hends.conn, hends.result⟩

/-- Settles O47: the run ends as its listing says, in result, table and the TS calls it made. -/
theorem executeMakesTheCallsOfItsPath : Obligations.ExecuteMakesTheCallsOfItsPath := by
  intro s relay action expect rest hp hin
  obtain ⟨w, r, k, t, hans, hk, hrun, hends⟩ := run_execute_endsAs hp hin
  exact ⟨w, r, k, t, hans, hk, hrun, hends.idle, hends.inbox, hends.result, hends.table, hends.calls_eq⟩

end Sys2Proof.Machine
end

section
/-! PROOFS. The calls of the platform device as operations of their own (R176 to R181): what each does on a session in the state
it is for, and its refusal on one in the other state. -/

namespace Sys2Proof.Machine

/-! ## Each call, said once -/

/-- On an open session `TS.OPEN` is refused (R176, log 13). -/
theorem exec_tsOpen_open {s : State} (port : PortId) (baud readTimeout : Nat) (hc : s.conn ≠ .closed) :
    exec (.tsOpen port baud readTimeout) s = .refused .openSession := by
  cases hconn : s.conn with
  | closed => exact absurd hconn hc
  | openOn p => simp only [exec, execTsOpen, hconn]

/-- On a closed session `TS.OPEN` ends by the environment's answer (R176). -/
theorem exec_tsOpen_closed_cases {s : State} (port : PortId) (baud readTimeout : Nat) (hc : s.conn = .closed) :
    (∃ u v, s.env.takeOpen.1 = .ok u v ∧ exec (.tsOpen port baud readTimeout) s =
      .next (State.ret { s.record (.openPort port baud readTimeout) with
        env := s.env.takeOpen.2, conn := .openOn port, rxBuf := u, txBuf := v } .ok)) ∨
    ∃ msg, s.env.takeOpen.1 = .error msg ∧ exec (.tsOpen port baud readTimeout) s =
      .next (State.raise { s.record (.openPort port baud readTimeout) with env := s.env.takeOpen.2 } (.openError msg)) := by
  rcases s.tsOpen_cases port baud readTimeout with ⟨u, v, hans, he⟩ | ⟨msg, hans, he⟩
  · exact .inl ⟨u, v, hans, by simp only [exec, execTsOpen, hc, he]⟩
  · exact .inr ⟨msg, hans, by simp only [exec, execTsOpen, hc, he]⟩

theorem exec_tsClose (s : State) : exec .tsClose s = .next (s.tsClose.ret .nothing) := rfl

/-- On a closed session `TS.FLUSH` is refused (U16, log 12). -/
theorem exec_tsFlush_closed {s : State} (hc : s.conn = .closed) : exec .tsFlush s = .refused .closedSession := by
  simp only [exec, execTsFlush, hc]

theorem exec_tsFlush_open {s : State} (hc : s.conn ≠ .closed) : exec .tsFlush s = .next (s.tsFlush.ret .nothing) := by
  cases hconn : s.conn with
  | closed => exact absurd hconn hc
  | openOn port => simp only [exec, execTsFlush, hconn]

/-- On a closed session `TS.WRITE` is refused (R179, U16, log 12). -/
theorem exec_tsWrite_closed {s : State} (f : Frame) (hc : s.conn = .closed) :
    exec (.tsWrite f) s = .refused .closedSession := by
  simp only [exec, execTsWrite, hc]

/-- On an open session `TS.WRITE` ends by the environment's answer (R179, R181). -/
theorem exec_tsWrite_open_cases {s : State} (f : Frame) (hc : s.conn ≠ .closed) :
    (s.env.takeWrite.1 = .ok ∧ exec (.tsWrite f) s =
      .next (State.ret { s.record (.write f) with env := s.env.takeWrite.2, txBuf := s.txBuf ++ f.bytes } .ok)) ∨
    ∃ n, s.env.takeWrite.1 = .error n ∧ exec (.tsWrite f) s =
      .next (State.raise { s.record (.write f) with
        env := s.env.takeWrite.2, line := s.line ++ (s.txBuf ++ f.bytes).take n }.hangUp .writeError) := by
  cases hconn : s.conn with
  | closed => exact absurd hconn hc
  | openOn port =>
    rcases s.tsWrite_cases f with ⟨hans, he⟩ | ⟨n, hans, he⟩
    · exact .inl ⟨hans, by simp only [exec, execTsWrite, hconn, he]⟩
    · exact .inr ⟨n, hans, by simp only [exec, execTsWrite, hconn, he]⟩

/-- On a closed session `TS.READ` is refused (U16, log 12). -/
theorem exec_tsRead_closed {s : State} (timeout : Nat) (hc : s.conn = .closed) :
    exec (.tsRead timeout) s = .refused .closedSession := by
  simp only [exec, execTsRead, hc]

/-- On an open session `TS.READ` ends by the environment's answer (R180, R181). -/
theorem exec_tsRead_open_cases {s : State} (timeout : Nat) (hc : s.conn ≠ .closed) :
    (∃ bs, s.env.takeRead.1 = .arrived bs ∧ exec (.tsRead timeout) s =
      .next (State.ret { s.record (.read timeout) with env := s.env.takeRead.2, rxBuf := (s.rxBuf ++ bs).drop 4 }
        (.bytes ((s.rxBuf ++ bs).take 4)))) ∨
    (s.env.takeRead.1 = .error ∧ exec (.tsRead timeout) s =
      .next (State.raise { s.record (.read timeout) with env := s.env.takeRead.2 }.hangUp .readError)) := by
  cases hconn : s.conn with
  | closed => exact absurd hconn hc
  | openOn port =>
    rcases s.tsRead_cases timeout with ⟨bs, hans, he⟩ | ⟨hans, he⟩
    · exact .inl ⟨bs, hans, by simp only [exec, execTsRead, hconn, he]⟩
    · exact .inr ⟨hans, by simp only [exec, execTsRead, hconn, he]⟩

/-! ## The statements on the calls -/

/-- Settles O50: the two ends of the call by its answer, and the refusal. -/
theorem tsOpenOpensOrStaysClosed : Obligations.TsOpenOpensOrStaysClosed := by
  intro s port baud readTimeout
  refine ⟨fun hc => ?_, exec_tsOpen_open port baud readTimeout⟩
  rcases exec_tsOpen_closed_cases port baud readTimeout hc with ⟨u, v, hans, h⟩ | ⟨msg, hans, h⟩
  · exact ⟨_, h, ⟨rfl, rfl, rfl, rfl⟩, rfl, rfl, .inl ⟨u, v, hans, rfl, rfl, rfl, rfl⟩⟩
  · exact ⟨_, h, ⟨rfl, rfl, rfl, rfl⟩, rfl, rfl, .inr ⟨msg, hans, hc, rfl, rfl, rfl⟩⟩

/-- Settles O51: a second close finds the session closed, the buffers empty and the result delivered, and only adds its call. -/
theorem tsCloseIsTotalAndIdempotent : Obligations.TsCloseIsTotalAndIdempotent := fun s =>
  ⟨_, exec_tsClose s, rfl, exec_tsClose _⟩

/-- Settles O52: what an open session and a closed one answer are laws of their own. -/
theorem tsFlushEmptiesBothBuffers : Obligations.TsFlushEmptiesBothBuffers := fun _ =>
  ⟨exec_tsFlush_open, exec_tsFlush_closed⟩

/-- Settles O53: the two ends of the call by its answer, and the refusal; the bytes of a frame are in wire order. -/
theorem tsWriteAcceptsOrCloses : Obligations.TsWriteAcceptsOrCloses := by
  intro s f
  refine ⟨fun hc => ?_, exec_tsWrite_closed f⟩
  rcases exec_tsWrite_open_cases f hc with ⟨hans, h⟩ | ⟨n, hans, h⟩
  · exact ⟨_, h, ⟨rfl, rfl, rfl, rfl⟩, rfl, .inl ⟨hans, rfl, rfl, rfl, rfl, rfl⟩⟩
  · exact ⟨_, h, ⟨rfl, rfl, rfl, rfl⟩, rfl, .inr ⟨n, hans, rfl, rfl, rfl, rfl, rfl⟩⟩

/-- Settles O54: the two ends of the call by its answer, and the refusal; what is read and what stays unread are the first four
bytes of one sequence and its rest. -/
theorem tsReadReturnsAtMostFourBytes : Obligations.TsReadReturnsAtMostFourBytes := by
  intro s timeout
  refine ⟨fun hc => ?_, exec_tsRead_closed timeout⟩
  rcases exec_tsRead_open_cases timeout hc with ⟨bs, hans, h⟩ | ⟨hans, h⟩
  · exact ⟨_, h, ⟨rfl, rfl, rfl, rfl⟩, rfl, rfl,
      .inl ⟨bs, _, hans, rfl, List.length_take, List.take_append_drop _ _, rfl, rfl⟩⟩
  · exact ⟨_, h, ⟨rfl, rfl, rfl, rfl⟩, rfl, rfl, .inr ⟨hans, rfl, rfl, rfl, rfl⟩⟩

end Sys2Proof.Machine
end

section
/-! PROOFS. The connection state (R24, R181): each instruction, each phase of an exchange and so each step leaves it as it was
or records the TS call that changed it, and a flush is never among the calls of a step that changes it. -/

namespace Sys2Proof.Machine

/-- From `s` to `t` the connection state changes only with TS calls recorded, none of them a flush. -/
def ConnChangesByCall (s t : State) : Prop :=
  t.conn ≠ s.conn → ∃ new : List TsCall, t.calls = s.calls ++ new ∧ new ≠ [] ∧ TsCall.flush ∉ new

theorem ConnChangesByCall.of_conn_eq {s t : State} (h : t.conn = s.conn) : ConnChangesByCall s t :=
  fun hne => absurd h hne

theorem ConnChangesByCall.of_calls {s t : State} {new : List TsCall} (h : t.calls = s.calls ++ new) (hne : new ≠ [])
    (hflush : TsCall.flush ∉ new) : ConnChangesByCall s t := fun _ => ⟨new, h, hne, hflush⟩

/-! ## The instructions -/

theorem State.response_conn (s : State) (addr code : Byte) : (s.response addr code).conn = s.conn := by
  unfold response
  split <;> rfl

theorem State.returnFrame_conn (s : State) (relay op : Byte) : (s.returnFrame relay op).conn = s.conn := by
  rw [returnFrame_eq, ret_conn]

theorem exec_tsOpen_connChangesByCall {s t : State} {port : PortId} {baud readTimeout : Nat}
    (h : exec (.tsOpen port baud readTimeout) s = .next t) : ConnChangesByCall s t := by
  refine .of_calls (new := [.openPort port baud readTimeout]) ?_ (by simp) (by simp)
  by_cases hc : s.conn = .closed
  · rcases exec_tsOpen_closed_cases port baud readTimeout hc with ⟨u, v, -, he⟩ | ⟨msg, -, he⟩ <;> rw [he] at h <;>
      cases h <;> rfl
  · rw [exec_tsOpen_open port baud readTimeout hc] at h
    cases h

/-- A flush is recorded and keeps the connection state (R178, R181). -/
theorem exec_tsFlush_conn {s t : State} (h : exec .tsFlush s = .next t) : t.conn = s.conn := by
  by_cases hc : s.conn = .closed
  · rw [exec_tsFlush_closed hc] at h
    cases h
  · rw [exec_tsFlush_open hc] at h
    cases h
    rfl

theorem exec_tsWrite_connChangesByCall {s t : State} {f : Frame} (h : exec (.tsWrite f) s = .next t) :
    ConnChangesByCall s t := by
  refine .of_calls (new := [.write f]) ?_ (by simp) (by simp)
  by_cases hc : s.conn = .closed
  · rw [exec_tsWrite_closed f hc] at h
    cases h
  · rcases exec_tsWrite_open_cases f hc with ⟨-, he⟩ | ⟨n, -, he⟩ <;> rw [he] at h <;> cases h <;> rfl

theorem exec_tsRead_connChangesByCall {s t : State} {timeout : Nat} (h : exec (.tsRead timeout) s = .next t) :
    ConnChangesByCall s t := by
  refine .of_calls (new := [.read timeout]) ?_ (by simp) (by simp)
  by_cases hc : s.conn = .closed
  · rw [exec_tsRead_closed timeout hc] at h
    cases h
  · rcases exec_tsRead_open_cases timeout hc with ⟨bs, -, he⟩ | ⟨-, he⟩ <;> rw [he] at h <;> cases h <;> rfl

/-- `EXECUTE` is accepted or refused with the connection state as it was (R132 to R134). -/
theorem exec_execute_conn {s t : State} {relay : Byte} {action : Action} {expect : Bool} (hp : s.phase = .idle)
    (h : exec (.execute relay action expect) s = .next t) : t.conn = s.conn := by
  cases hr : isRelayAddress relay with
  | false =>
    rw [exec_execute_badAddress action expect hp hr] at h
    cases h
    rfl
  | true =>
    by_cases hc : s.conn = .closed
    · rw [exec_execute_closed action expect hp hr hc] at h
      cases h
      rfl
    · rw [exec_execute_open action expect hp hr hc] at h
      cases h
      rfl

/-- Of the host's operations `CONNECT` and `DISCONNECT` call the TS (R148, R149); a busy block holds them all (R131). -/
theorem exec_hostOperation_connChangesByCall {i : Instr} {s t : State} (hi : isHostOperation i = true)
    (h : exec i s = .next t) : ConnChangesByCall s t := by
  by_cases hp : s.phase = .idle
  · cases i with
    | execute relay action expect => exact .of_conn_eq (exec_execute_conn hp h)
    | connect port =>
      rw [exec_connect_idle port hp] at h
      cases h
      refine .of_calls ((s.connect_calls port).trans (List.append_assoc _ _ _)) (by simp) ?_
      split <;> simp
    | disconnect =>
      rw [exec_disconnect_idle hp] at h
      cases h
      exact .of_calls s.tsClose_calls (by simp) (by simp)
    | currentState a =>
      rw [exec_currentState_idle a hp] at h
      cases h
      exact .of_conn_eq rfl
    | _ => cases hi
  · rw [exec_hostOperation_busy hi hp] at h
    cases h
    exact .of_conn_eq rfl

/-- Only the host's operations and the calls of the platform device can change the connection state: ENC, DEC, RSS and a
received response leave it alone. -/
theorem exec_connChangesByCall {i : Instr} {s t : State} (h : exec i s = .next t) : ConnChangesByCall s t := by
  cases i with
  | execute | connect | disconnect | currentState => exact exec_hostOperation_connChangesByCall rfl h
  | tsOpen => exact exec_tsOpen_connChangesByCall h
  | tsClose =>
    cases h
    exact .of_calls s.tsClose_calls (by simp) (by simp)
  | tsFlush => exact .of_conn_eq (exec_tsFlush_conn h)
  | tsWrite => exact exec_tsWrite_connChangesByCall h
  | tsRead => exact exec_tsRead_connChangesByCall h
  | rspOff | rspOn | rspOffAck | rspOnAck | rspUnknown =>
    cases h
    exact .of_conn_eq (s.response_conn _ _)
  | cmdOff | cmdOn | cmdOffAck | cmdOnAck | cmdToggle | cmdQuery | encFrame | encAction =>
    cases h
    exact .of_conn_eq (s.returnFrame_conn _ _)
  | encSelect | decFrame | decMap | rssGet | rssSet | rssInvalidate =>
    cases h
    exact .of_conn_eq rfl

/-! ## The phases of an exchange -/

@[simp] theorem State.optimistic_conn (s : State) : s.optimistic.conn = s.conn := by
  rcases s.optimistic_cases with h | ⟨v, h⟩ <;> rw [h]
  rfl

/-- Phase `WRITE` loses the session only where the TS answers `WriteError` (R137). -/
theorem step_write_connChangesByCall {s t : State} (hp : s.phase = .write) (hc : s.conn ≠ .closed)
    (h : step s = .next t) : ConnChangesByCall s t := by
  by_cases hr : isRelayAddress s.cur.relay = true
  · cases hw : s.envMove.env.takeWrite.1 with
    | ok =>
      obtain ⟨s1, hstep, h1⟩ := step_write_ok hp hc hr hw
      rw [hstep] at h
      cases h
      refine .of_conn_eq (Eq.trans ?_ h1.conn)
      split
      · rfl
      · exact s1.optimistic_conn
    | error n =>
      obtain ⟨t', f, -, hstep, -, -, -, -, hcalls, -⟩ := failedWriteLosesTheConnection s n hp hc hr hw
      rw [hstep] at h
      cases h
      exact .of_calls hcalls (by simp) (by simp)
  · rw [step_write hp hc, State.writePhase_badAddress (by rwa [s.envMove_cur])] at h
    cases h
    exact .of_conn_eq s.envMove_conn

/-- Phase `READ` loses the session only where the TS answers `ReadError` (R142). -/
theorem step_read_connChangesByCall {s t : State} (hp : s.phase = .read) (hc : s.conn ≠ .closed)
    (h : step s = .next t) : ConnChangesByCall s t := by
  cases hr : s.envMove.env.takeRead.1 with
  | arrived bs =>
    obtain ⟨s1, hstep, -, -, hconn, -⟩ := step_read_arrived hp hc hr
    obtain ⟨-, hkept, -⟩ := s1.answered_frame ((s.envMove.rxBuf ++ bs).take 4)
    rw [hstep] at h
    cases h
    exact .of_conn_eq (hkept.trans hconn)
  | error =>
    obtain ⟨t', hstep, -, -, -, -, hcalls, -⟩ := readErrorLosesTheConnection s hp hc hr
    rw [hstep] at h
    cases h
    exact .of_calls hcalls (by simp) (by simp)

/-! ## The step -/

/-- The environment moves neither the connection state nor the record of calls. -/
theorem ConnChangesByCall.of_envMove {s t : State} (h : ConnChangesByCall s.envMove t) : ConnChangesByCall s t := by
  simpa only [ConnChangesByCall, State.envMove_conn, State.envMove_calls] using h

theorem step_idle_connChangesByCall {s t : State} (hp : s.phase = .idle) (h : step s = .next t) :
    ConnChangesByCall s t := by
  refine .of_envMove ?_
  rcases act_idle_cases (s.envMove_phase.trans hp) h with rfl | ⟨x, rest, -, ⟨i, -, hx⟩ | ⟨-, e, rfl⟩⟩
  · exact .of_conn_eq rfl
  · exact exec_connChangesByCall (s := { s.envMove with inbox := rest }) hx
  · exact .of_conn_eq rfl

/-- Settles O57: by the phase; phase `FLUSH` makes a flush and keeps the session. -/
theorem connectionChangesOnlyInsideTsCalls : Obligations.ConnectionChangesOnlyInsideTsCalls := by
  intro s t h
  by_cases hidle : s.phase = .idle
  · exact step_idle_connChangesByCall hidle h
  obtain ⟨hc, -⟩ := step_busy_cases hidle h
  cases hp : s.phase with
  | idle => exact absurd hp hidle
  | flush =>
    rw [step_flush hp hc] at h
    cases h
    exact ConnChangesByCall.of_conn_eq s.envMove_conn
  | write => exact step_write_connChangesByCall hp hc h
  | read => exact step_read_connChangesByCall hp hc h

end Sys2Proof.Machine
end

section
/-! PROOFS. Late bytes (R211): with nothing at the port they come into the input buffer and stay there unread; the next exchange,
at its second step, flushes them away before its write (R53, R135). -/

namespace Sys2Proof.Machine

/-- With a session open and nothing at the port, bytes that come in are appended to the unread ones and nothing else the block
holds changes (R30, R183). -/
theorem step_idle_lateBytes {s : State} {late : ByteSeq} {more : List ByteSeq} (hp : s.phase = .idle) (hin : s.inbox = [])
    (hc : s.conn ≠ .closed) (harr : s.env.arrivals = late :: more) :
    ∃ t, step s = .next t ∧ t.rxBuf = s.rxBuf ++ late ∧ t.rss = s.rss ∧ t.conn = s.conn ∧ t.phase = .idle ∧
      t.cur = s.cur ∧ t.calls = s.calls ∧ t.inbox = [] ∧ t.result = s.result :=
  ⟨s.envMove, step_idle_hold hp hin, (s.envMove_arrivals hc harr).1, s.envMove_rss, s.envMove_conn, s.envMove_phase.trans hp,
    s.envMove_cur, s.envMove_calls, s.envMove_inbox.trans hin, s.envMove_result⟩

/-- The first step of an exchange: the request leaves the port, its operands are latched and phase `FLUSH` is next (R134). -/
theorem step_idle_execute_open {s : State} {relay : Byte} {action : Action} {expect : Bool} {rest : List Transaction}
    (hp : s.phase = .idle) (hin : s.inbox = encode (.execute relay action expect) :: rest)
    (hr : isRelayAddress relay = true) (hc : s.conn ≠ .closed) :
    step s = .next (State.goTo { s.envMove with inbox := rest, cur := ⟨relay, action, expect⟩ } .flush) :=
  (step_idle_exec hp hin (decode_encode_execute relay action expect)).trans
    (exec_execute_open action expect (s.envMove_phase.trans hp) hr (s.envMove_conn ▸ hc))

/-- The first two steps of an exchange empty both buffers, before anything is written, and leave the table alone (R135). -/
theorem run_execute_flushes {s : State} {relay : Byte} {action : Action} {expect : Bool} {rest : List Transaction}
    (hp : s.phase = .idle) (hin : s.inbox = encode (.execute relay action expect) :: rest)
    (hr : isRelayAddress relay = true) (hc : s.conn ≠ .closed) :
    ∃ t, Host.Core.run core 2 s = .next t ∧ t.rxBuf = [] ∧ t.txBuf = [] ∧ t.rss = s.rss ∧ t.phase = .write ∧
      t.calls = s.calls ++ [.flush] := by
  have hlatch := step_idle_execute_open hp hin hr hc
  obtain ⟨t, hflush, hphase, hrx, htx, hcalls, -, hrss, -⟩ := flushPhaseEmptiesBothBuffers
    (State.goTo { s.envMove with inbox := rest, cur := ⟨relay, action, expect⟩ } .flush) rfl (s.envMove_conn ▸ hc)
  have hrun : Host.Core.run core 2 s = .next t := (run_next hlatch).trans (run_next hflush)
  exact ⟨t, hrun, hrx, htx, hrss.trans s.envMove_rss, hphase, by simpa using hcalls⟩

/-- Settles O37: an idle step on an empty port only lets the bytes in, and the next exchange's flush empties the buffer. -/
theorem lateBytesWaitAndAreThrownAway : Obligations.LateBytesWaitAndAreThrownAway :=
  ⟨fun _ _ _ => step_idle_lateBytes, fun _ _ _ _ _ hp hin hc hlo hhi =>
    run_execute_flushes hp hin (isRelayAddress_of_range hlo hhi) hc⟩

end Sys2Proof.Machine
end
